-- ==== Sys2Proof/Word.lean ====
section
/-! DEFINITION. The bit-vector types of the engine and the names of its two memories. -/

namespace Sys2Proof

/-- 8 bits (R16). -/
abbrev Byte := BitVec 8

/-- 32 bits: a word of a block (R16), a command word (R80), a control register (R30). -/
abbrev Word := BitVec 32

/-- 128 bits, the unit of AES operation, in the little-endian numeric view of R17: byte `b[i]` is bits `8i+7 : 8i`. -/
abbrev Block := BitVec 128

/-- The two memories of R37, disjoint (U9). The third space of R37, `CTL`, is registers. -/
inductive Space where
  | state  -- `STATE`, 192 bytes
  | pad    -- `PAD`, `MEM` bytes
deriving DecidableEq, Repr

end Sys2Proof
end

