-- ==== Sys2Proof/Machine/Bytes.lean ====
section
/-! DEFINITION. Bytes and words of a block (R16, R17): byte `b[i]` is at bits `8i+7 : 8i`, word `j` at bits `32j+31 : 32j`. -/

namespace Sys2Proof.Machine

/-- Byte `b[i]` of a block (R16, R17). -/
def byteOf (b : Block) (i : Nat) : Byte := b.extractLsb' (8 * i) 8

/-- `W(b, j)`, word `j` of a block (R16, R17). -/
def wordOf (b : Block) (j : Nat) : Word := b.extractLsb' (32 * j) 32

/-- Byte `i` of a word, byte 0 at the lowest address (R16). -/
def byteOfWord (w : Word) (i : Nat) : Byte := w.extractLsb' (8 * i) 8

/-- The word `[a0, a1, a2, a3]`, `a0` at the lowest address (R16). -/
def wordOfBytes (a0 a1 a2 a3 : Byte) : Word := a3 ++ a2 ++ a1 ++ a0

/-- The block whose words 0 to 3 are given (R16). -/
def blockOfWords (w0 w1 w2 w3 : Word) : Block := w3 ++ w2 ++ w1 ++ w0

/-- The block with `b[i] = f i` for `i` in 0..15 (R16). -/
def blockOfBytes (f : Nat → Byte) : Block :=
  blockOfWords (wordOfBytes (f 0) (f 1) (f 2) (f 3)) (wordOfBytes (f 4) (f 5) (f 6) (f 7))
    (wordOfBytes (f 8) (f 9) (f 10) (f 11)) (wordOfBytes (f 12) (f 13) (f 14) (f 15))

/-- A block written as the spec writes one (R16): hexadecimal digits in memory order, `b[0]` leftmost. -/
def memoryOrder (h : BitVec 128) : Block := blockOfBytes fun i => h.extractLsb' (8 * (15 - i)) 8

end Sys2Proof.Machine
end

