-- ==== Sys2Proof/Machine/AesFunctions.lean ====
section
/-! DEFINITION. The pure functions of the AES layer (R101 to R113, R117), the key schedule (R132 to R134) and the round
network (R150, R151). All are total (R100). -/

namespace Sys2Proof.Machine

/-- Multiplication by `x` in GF(2^8) modulo 0x11B (R101). -/
def xtime (a : Byte) : Byte := (a <<< 1) ^^^ (if a.msb then 0x1B#8 else 0x00#8)

/-- The xor of `xtime^i(a)` over the bits `i < n` of `c` that are 1. -/
def gmulBits (a c : Byte) : Nat → Byte
  | 0     => 0#8
  | n + 1 => gmulBits a c n ^^^ (if c.getLsbD n then xtime^[n] a else 0#8)

/-- The product in GF(2^8) modulo 0x11B (R102). -/
def gmul (a c : Byte) : Byte := gmulBits a c 8

/-- The rows of the S-box table of R103, row `16r`, the entry of column 0 leftmost. -/
def sboxRows : List Nat :=
  [ 0x637c777bf26b6fc53001672bfed7ab76, 0xca82c97dfa5947f0add4a2af9ca472c0,
    0xb7fd9326363ff7cc34a5e5f171d83115, 0x04c723c31896059a071280e2eb27b275,
    0x09832c1a1b6e5aa0523bd6b329e32f84, 0x53d100ed20fcb15b6acbbe394a4c58cf,
    0xd0efaafb434d338545f9027f503c9fa8, 0x51a3408f929d38f5bcb6da2110fff3d2,
    0xcd0c13ec5f974417c4a77e3d645d1973, 0x60814fdc222a908846eeb814de5e0bdb,
    0xe0323a0a4906245cc2d3ac629195e479, 0xe7c8376d8dd54ea96c56f4ea657aae08,
    0xba78252e1ca6b4c6e8dd741f4bbd8b8a, 0x703eb5664803f60e613557b986c11d9e,
    0xe1f8981169d98e949b1e87e9ce5528df, 0x8ca1890dbfe6426841992d0fb054bb16 ]

/-- `S(a)`, the AES S-box, by the table of R103. -/
def sbox (a : Byte) : Byte :=
  BitVec.ofNat 8 ((sboxRows.getD (a.toNat / 16) 0) >>> (8 * (15 - a.toNat % 16)))

/-- The affine map of R103, applied to a field inverse `t`. -/
def sboxAffine (t : Byte) : Byte :=
  t ^^^ t.rotateLeft 1 ^^^ t.rotateLeft 2 ^^^ t.rotateLeft 3 ^^^ t.rotateLeft 4 ^^^ 0x63#8

/-- `SubBytes` (R104). -/
def subBytes (b : Block) : Block := blockOfBytes fun i => sbox (byteOf b i)

/-- `ShiftRows` (R105): row `r = i mod 4` of column `c = i / 4` comes from column `(c + r) mod 4` (R117). -/
def shiftRows (b : Block) : Block := blockOfBytes fun i => byteOf b (i % 4 + 4 * ((i / 4 + i % 4) % 4))

/-- One column of `MixColumns` (R106), with `gmul(2, a) = xtime(a)` and `gmul(3, a) = xtime(a) xor a` (R102). -/
def mixColumn (a0 a1 a2 a3 : Byte) : Word :=
  wordOfBytes
    (xtime a0 ^^^ (xtime a1 ^^^ a1) ^^^ a2 ^^^ a3)
    (a0 ^^^ xtime a1 ^^^ (xtime a2 ^^^ a2) ^^^ a3)
    (a0 ^^^ a1 ^^^ xtime a2 ^^^ (xtime a3 ^^^ a3))
    ((xtime a0 ^^^ a0) ^^^ a1 ^^^ a2 ^^^ xtime a3)

/-- Column `c` of a block through `mixColumn` (R106, R117). -/
def mixedColumn (b : Block) (c : Nat) : Word :=
  mixColumn (byteOf b (4 * c)) (byteOf b (4 * c + 1)) (byteOf b (4 * c + 2)) (byteOf b (4 * c + 3))

/-- `MixColumns` (R106). -/
def mixColumns (b : Block) : Block :=
  blockOfWords (mixedColumn b 0) (mixedColumn b 1) (mixedColumn b 2) (mixedColumn b 3)

/-- `AddRoundKey` (R107). -/
def addRoundKey (b rk : Block) : Block := b ^^^ rk

/-- `encrypt_round` (R108): the same four steps at every application, the key last (R109). -/
def encryptRound (b rk : Block) : Block := addRoundKey (mixColumns (shiftRows (subBytes b))) rk

/-- `SubWord` (R110). -/
def subWord (w : Word) : Word :=
  wordOfBytes (sbox (byteOfWord w 0)) (sbox (byteOfWord w 1)) (sbox (byteOfWord w 2)) (sbox (byteOfWord w 3))

/-- `RotWord` (R111). -/
def rotWord (w : Word) : Word :=
  wordOfBytes (byteOfWord w 1) (byteOfWord w 2) (byteOfWord w 3) (byteOfWord w 0)

/-- The round constant as a word, in the byte at the lowest address (R112, C6). -/
def rconWord (rcon : Byte) : Word := wordOfBytes rcon 0#8 0#8 0#8

/-- `key_schedule_assist` (R112). -/
def keyScheduleAssist (b : Block) (rcon : Byte) : Block :=
  blockOfWords (subWord (wordOf b 1)) (rotWord (subWord (wordOf b 1)) ^^^ rconWord rcon)
    (subWord (wordOf b 3)) (rotWord (subWord (wordOf b 3)) ^^^ rconWord rcon)

/-- `broadcast(b, j)` (R113). -/
def broadcast (b : Block) (j : Nat) : Block := blockOfWords (wordOf b j) (wordOf b j) (wordOf b j) (wordOf b j)

/-- `shlw` (R132): every word one place up, zeros in word 0. -/
def shlw (b : Block) : Block := b <<< 32

/-- `sl_xor` (R132, C7). -/
def slXor (b : Block) : Block := b ^^^ shlw b ^^^ shlw (shlw b) ^^^ shlw (shlw (shlw b))

/-- The next `k_lo` of R133: the fold of `lo`, and word 3 of the assist of `hi`, broadcast. -/
def nextLo (lo hi : Block) (rcon : Byte) : Block := slXor lo ^^^ broadcast (keyScheduleAssist hi rcon) 3

/-- The next `k_hi` of R133: the fold of `hi`, and word 2 of the assist of the new `lo` with constant 0, broadcast (C5). -/
def nextHi (lo' hi : Block) : Block := slXor hi ^^^ broadcast (keyScheduleAssist lo' 0x00#8) 2

/-- `genkey_step` (R133). The second half reads the new `lo`. -/
def genkeyStep (lo hi : Block) (rcon : Byte) : Block × Block :=
  (nextLo lo hi rcon, nextHi (nextLo lo hi rcon) hi)

/-- The pairs of R134 that follow a pair, one for each round constant, flattened. -/
def expandPairs : Block → Block → List Byte → List Block
  | _, _, [] => []
  | lo, hi, rcon :: rest =>
    (genkeyStep lo hi rcon).1 :: (genkeyStep lo hi rcon).2 ::
      expandPairs (genkeyStep lo hi rcon).1 (genkeyStep lo hi rcon).2 rest

/-- `key_expand` (R134): `k0, ..., k9`. -/
def keyExpand (lo hi : Block) : List Block := lo :: hi :: expandPairs lo hi [0x01#8, 0x02#8, 0x04#8, 0x08#8]

/-- `round_n` (R150): every lane one round with the same key. -/
def roundN (lanes : List Block) (rk : Block) : List Block := lanes.map fun b => encryptRound b rk

/-- `net` (R151): `round_n` with each key in turn, the first key first. -/
def net (lanes keys : List Block) : List Block := keys.foldl roundN lanes

/-- `net` on one lane, `net((x), ks)_0` (R157). -/
def netLane (keys : List Block) (b : Block) : Block := keys.foldl encryptRound b

end Sys2Proof.Machine
end

