-- ==== Sys2Proof/Syntax.lean ====
section
/-! DEFINITION. The thirteen commands of `CGENG-1` (R84), one constructor for each row of the opcode table. -/

namespace Sys2Proof

/-- A command with the fields of its word that carry operands (R80, R84). Fields keep their encoded width; which values
are legal is `Instr.wellFormed`. -/
inductive Instr where
  /-- `LDX d, s` (R210) -/
  | ldx (d s : BitVec 4)
  /-- `STX d, s` (R211) -/
  | stx (d s : BitVec 4)
  /-- `LDK k, s` (R212) -/
  | ldk (k s : BitVec 4)
  /-- `STK k, s` (R213) -/
  | stk (k s : BitVec 4)
  /-- `AESRND d, k` (R114) -/
  | aesrnd (d k : BitVec 4)
  /-- `KASSIST d, imm` (R115) -/
  | kassist (d : BitVec 4) (rcon : Byte)
  /-- `KEXP` (R137) -/
  | kexp
  /-- `ROUND4 d, k` (R153) -/
  | round4 (d k : BitVec 4)
  /-- `ROUND8 k` (R154) -/
  | round8 (k : BitVec 4)
  /-- `NET4 d` (R155) -/
  | net4 (d : BitVec 4)
  /-- `NET8` (R156) -/
  | net8
  /-- `EXPLODE` (R172) -/
  | explode
  /-- `IMPLODE` (R192) -/
  | implode
deriving DecidableEq, Repr

end Sys2Proof
end

