-- ==== Sys2Proof/WellFormed.lean ====
section
/-! DEFINITION. Which operand values each command admits (the range columns of R84). -/

namespace Sys2Proof

/-- A lane index, 0 to 7 (R84). -/
def isLane (d : BitVec 4) : Bool := d ≤ 7#4

/-- A round-key index, 0 to 9 (R84). -/
def isKey (k : BitVec 4) : Bool := k ≤ 9#4

/-- A State block index, 0 to 11 (R84). -/
def isStateBlock (s : BitVec 4) : Bool := s ≤ 11#4

/-- A lane group base, 0 or 4 (R21, R84). -/
def isGroupBase (d : BitVec 4) : Bool := d = 0#4 || d = 4#4

/-- Every operand field has a value that R84 admits. -/
def Instr.wellFormed : Instr → Bool
  | .ldx d s     => isLane d && isStateBlock s
  | .stx d s     => isLane d && isStateBlock s
  | .ldk k s     => isKey k && isStateBlock s
  | .stk k s     => isKey k && isStateBlock s
  | .aesrnd d k  => isLane d && isKey k
  | .kassist d _ => isLane d
  | .kexp        => true
  | .round4 d k  => isGroupBase d && isKey k
  | .round8 k    => isKey k
  | .net4 d      => isGroupBase d
  | .net8        => true
  | .explode     => true
  | .implode     => true

end Sys2Proof
end

