-- ==== Sys2Proof/Decode.lean ====
section
/-! DEFINITION. Command words: field extraction (R81), the decoder (R83), the encoder (R81, R84), the opcode table (R84). -/

namespace Sys2Proof

/-- `op = w[7:0]` (R81). -/
def opField (w : Word) : Byte := w.extractLsb' 0 8

/-- `a = w[11:8]` (R81). -/
def aField (w : Word) : BitVec 4 := w.extractLsb' 8 4

/-- `b = w[15:12]` (R81). -/
def bField (w : Word) : BitVec 4 := w.extractLsb' 12 4

/-- `imm = w[23:16]` (R81). -/
def immField (w : Word) : Byte := w.extractLsb' 16 8

/-- `rsv = w[31:24]` (R81). -/
def rsvField (w : Word) : Byte := w.extractLsb' 24 8

/-- Why a word is no command (R85). Both answers are the one outcome `illegal` of R83. -/
inductive IllegalWord where
  /-- the reserved field is not zero (the first arm of R83) -/
  | reservedBits
  /-- no arm of R83 takes the word: an opcode that is not assigned, or a field outside its range -/
  | noSuchCommand
deriving DecidableEq, Repr

/-- `decode(w)` of R83, its arms in the spec's order. -/
def decode (w : Word) : Except IllegalWord Instr :=
  let op := opField w
  let a := aField w
  let b := bField w
  let imm := immField w
  if rsvField w ≠ 0#8 then .error .reservedBits
  else if op = 0x01#8 ∧ a ≤ 7#4 ∧ b ≤ 11#4 ∧ imm = 0#8 then .ok (.ldx a b)
  else if op = 0x02#8 ∧ a ≤ 7#4 ∧ b ≤ 11#4 ∧ imm = 0#8 then .ok (.stx a b)
  else if op = 0x03#8 ∧ a ≤ 9#4 ∧ b ≤ 11#4 ∧ imm = 0#8 then .ok (.ldk a b)
  else if op = 0x04#8 ∧ a ≤ 9#4 ∧ b ≤ 11#4 ∧ imm = 0#8 then .ok (.stk a b)
  else if op = 0x10#8 ∧ a ≤ 7#4 ∧ b ≤ 9#4 ∧ imm = 0#8 then .ok (.aesrnd a b)
  else if op = 0x11#8 ∧ a ≤ 7#4 ∧ b = 0#4 then .ok (.kassist a imm)
  else if op = 0x20#8 ∧ a = 0#4 ∧ b = 0#4 ∧ imm = 0#8 then .ok .kexp
  else if op = 0x30#8 ∧ (a = 0#4 ∨ a = 4#4) ∧ b ≤ 9#4 ∧ imm = 0#8 then .ok (.round4 a b)
  else if op = 0x31#8 ∧ a = 0#4 ∧ b ≤ 9#4 ∧ imm = 0#8 then .ok (.round8 b)
  else if op = 0x32#8 ∧ (a = 0#4 ∨ a = 4#4) ∧ b = 0#4 ∧ imm = 0#8 then .ok (.net4 a)
  else if op = 0x33#8 ∧ a = 0#4 ∧ b = 0#4 ∧ imm = 0#8 then .ok .net8
  else if op = 0x40#8 ∧ a = 0#4 ∧ b = 0#4 ∧ imm = 0#8 then .ok .explode
  else if op = 0x41#8 ∧ a = 0#4 ∧ b = 0#4 ∧ imm = 0#8 then .ok .implode
  else .error .noSuchCommand

/-- A command word from its fields, `rsv` zero (R80, R81). -/
def commandWord (op : Byte) (a b : BitVec 4) (imm : Byte) : Word := 0#8 ++ imm ++ b ++ a ++ op

/-- The word of a command (R81, R84). -/
def encode : Instr → Word
  | .ldx d s        => commandWord 0x01#8 d s 0#8
  | .stx d s        => commandWord 0x02#8 d s 0#8
  | .ldk k s        => commandWord 0x03#8 k s 0#8
  | .stk k s        => commandWord 0x04#8 k s 0#8
  | .aesrnd d k     => commandWord 0x10#8 d k 0#8
  | .kassist d rcon => commandWord 0x11#8 d 0#4 rcon
  | .kexp           => commandWord 0x20#8 0#4 0#4 0#8
  | .round4 d k     => commandWord 0x30#8 d k 0#8
  | .round8 k       => commandWord 0x31#8 0#4 k 0#8
  | .net4 d         => commandWord 0x32#8 d 0#4 0#8
  | .net8           => commandWord 0x33#8 0#4 0#4 0#8
  | .explode        => commandWord 0x40#8 0#4 0#4 0#8
  | .implode        => commandWord 0x41#8 0#4 0#4 0#8

/-- One row of the opcode table of R84: the bits fixed by `mask` and `match`, and the range conditions on `a` and `b`. -/
structure OpcodeRow where
  mnemonic : String
  matchBits : Word
  mask : Word
  aMax : BitVec 4
  bMax : BitVec 4
deriving DecidableEq, Repr

/-- R84: `(w and mask) = match` and the further condition holds. -/
def OpcodeRow.selects (r : OpcodeRow) (w : Word) : Prop :=
  w &&& r.mask = r.matchBits ∧ aField w ≤ r.aMax ∧ bField w ≤ r.bMax

/-- The table of R84. A range of 15 is the absence of a further condition. -/
def opcodeRows : List OpcodeRow :=
  [ ⟨"LDX",     0x00000001#32, 0xFFFF08FF#32, 15#4, 11#4⟩,
    ⟨"STX",     0x00000002#32, 0xFFFF08FF#32, 15#4, 11#4⟩,
    ⟨"LDK",     0x00000003#32, 0xFFFF00FF#32, 9#4, 11#4⟩,
    ⟨"STK",     0x00000004#32, 0xFFFF00FF#32, 9#4, 11#4⟩,
    ⟨"AESRND",  0x00000010#32, 0xFFFF08FF#32, 15#4, 9#4⟩,
    ⟨"KASSIST", 0x00000011#32, 0xFF00F8FF#32, 15#4, 15#4⟩,
    ⟨"KEXP",    0x00000020#32, 0xFFFFFFFF#32, 15#4, 15#4⟩,
    ⟨"ROUND4",  0x00000030#32, 0xFFFF0BFF#32, 15#4, 9#4⟩,
    ⟨"ROUND8",  0x00000031#32, 0xFFFF0FFF#32, 15#4, 9#4⟩,
    ⟨"NET4",    0x00000032#32, 0xFFFFFBFF#32, 15#4, 15#4⟩,
    ⟨"NET8",    0x00000033#32, 0xFFFFFFFF#32, 15#4, 15#4⟩,
    ⟨"EXPLODE", 0x00000040#32, 0xFFFFFFFF#32, 15#4, 15#4⟩,
    ⟨"IMPLODE", 0x00000041#32, 0xFFFFFFFF#32, 15#4, 15#4⟩ ]

/-- A command's mnemonic in the table of R84. -/
def mnemonic : Instr → String
  | .ldx _ _     => "LDX"
  | .stx _ _     => "STX"
  | .ldk _ _     => "LDK"
  | .stk _ _     => "STK"
  | .aesrnd _ _  => "AESRND"
  | .kassist _ _ => "KASSIST"
  | .kexp        => "KEXP"
  | .round4 _ _  => "ROUND4"
  | .round8 _    => "ROUND8"
  | .net4 _      => "NET4"
  | .net8        => "NET8"
  | .explode     => "EXPLODE"
  | .implode     => "IMPLODE"

/-- The assembler expansion of the four pseudo-commands (R89): sequences of core commands, no encodings of their own. -/
def ldseed (s : BitVec 4) : List Instr := [.ldk 0#4 s, .ldk 1#4 (s + 1#4)]

/-- `KEYGEN s` (R89). -/
def keygen (s : BitVec 4) : List Instr := ldseed s ++ [.kexp]

/-- `ENC4 d` (R89), an alias. -/
def enc4 (d : BitVec 4) : List Instr := [.net4 d]

/-- `ENC8` (R89), an alias. -/
def enc8 : List Instr := [.net8]

/-- The command that `decode` reads from an instruction of `nbits` bits whose bits are `w`. A command word is one 32-bit
value with bit 0 its least significant bit (R80); it is never stored in bytes (R64), so it is laid out as it is. -/
def decodeTableWord (nbits w : Nat) : Option Instr :=
  if w % 2 ^ nbits < 2 ^ 32 then (decode (BitVec.ofNat 32 (w % 2 ^ nbits))).toOption else none

end Sys2Proof
end

