-- ==== Sys2Proof/Config.lean ====
section
/-! DEFINITION. What an implementation fixes (the scratchpad size `MEM`) and the values the spec leaves open. -/

namespace Sys2Proof

/-- The build-time parameter `MEM` (R10). `MEM` is a positive multiple of 128 with `MEM/16 < 2^32` (R10, R35, D2, U3);
`windowsPred` is `MEM/128 - 1`, so the values of this type are exactly the legal configurations. -/
structure Geometry where
  windowsPred : Fin 536870911
deriving DecidableEq, Repr

/-- The number of 8-block windows of the scratchpad, `MEM/128`. -/
def Geometry.windows (g : Geometry) : Nat := g.windowsPred.val + 1

/-- `N = MEM/16` (R11), the number of 128-bit blocks of the scratchpad. -/
def Geometry.blocks (g : Geometry) : Nat := 8 * g.windows

/-- `MEM` in bytes (R10). -/
def Geometry.mem (g : Geometry) : Nat := 128 * g.windows

/-- `IDXW` (R11): the least `W` with `2^W > N`. -/
def Geometry.idxWidth (g : Geometry) : Nat := Nat.log2 g.blocks + 1

/-- The configuration of a given `MEM`, refused (`none`) where R10, R35 and U3 refuse it. -/
def Geometry.ofMem (mem : Nat) : Option Geometry :=
  if h : mem % 128 = 0 ∧ 128 ≤ mem ∧ mem / 16 < 2 ^ 32 then
    some ⟨⟨mem / 128 - 1, by omega⟩⟩
  else none

/-- The reference configuration of R10, `MEM = 2,097,152`. -/
def Config.referenceGeometry : Geometry := ⟨⟨16383, by decide⟩⟩

/-- Free value: what a byte of a memory holds at power-up and until something writes it (R40, U5): one arbitrary draw for
each byte, the same at every read. -/
opaque Config.powerUpByte : Space → Nat → Byte

/-- Free value: the data bits of a lane register that holds no value (R22, U5). -/
opaque Config.emptyLaneData : Nat → Block

/-- Free value: the data bits of a round-key register that holds no value (R22, U5). -/
opaque Config.emptyKeyData : Nat → Block

/-- Free value: the byte that the `n`-th aborted command leaves at an address of a block it writes (R261, U7). -/
opaque Config.abortedByte : Nat → Space → Nat → Byte

end Sys2Proof
end

