-- ==== Sys2Proof/Machine/State.lean ====
section
/-! DEFINITION. The state of the engine and its host port as plain data, the reasons a step can stop, and reset. -/

namespace Sys2Proof.Machine

/-- `OP` of the sequencer (R27). -/
inductive SeqOp where
  | none
  | explode
  | implode
deriving DecidableEq, Repr

/-- `PHASE` of the sequencer (R27). -/
inductive Phase where
  | idle
  | keygen
  | loadA
  | sweepA
  | storeA
  | loadB
  | sweepB
  | storeB
deriving DecidableEq, Repr

/-- The sequencer (R27). `idx` counts blocks; the spec's `IDXW` bits always hold it (R28), which the invariant states. -/
structure Sequencer where
  op : SeqOp
  phase : Phase
  idx : Nat
deriving DecidableEq, Repr

/-- `STATUS.CAUSE` (R32, R230). Codes 3 to 15 are never produced. -/
inductive Cause where
  | none
  | illegalCmd
  | noValue
deriving DecidableEq, Repr

/-- The stored bits of `STATUS` (R32); the register as the host reads it is `statusWord` of Flags.lean. -/
structure Status where
  busy : Bool
  fault : Bool
  cause : Cause
deriving DecidableEq, Repr

/-- One memory: the bytes written so far, addresses strictly rising. A byte with no cell has not been written since
power-up and holds the free value `Config.powerUpByte` (R40, U5; logs 4 and 5). -/
abbrev Memory := List Host.Cell

/-- The canonical form: addresses strictly rise (so no address is listed twice). A cell always differs from what an
unlisted address gives, since `Memory.lookup` of an unlisted address is `none` (log 5). -/
abbrev Memory.wf (m : Memory) : Prop := List.Pairwise (fun c d : Host.Cell => c.1 < d.1) m

/-- What the host can do (R14, R270; logs 1, 2, 9). Offsets and addresses are byte offsets; a width is in bits. -/
inductive HostAction where
  /-- a blocking write of a command word to `CMD`: it returns when the command has completed (R61, R237, R268) -/
  | call (w : Word)
  /-- a write on the control port (R30 to R36); to `CMD` it is a posted command: it returns at acceptance -/
  | ctlWrite (offset width : Nat) (value : Word)
  /-- a read on the control port (R30 to R36) -/
  | ctlRead (offset width : Nat)
  /-- a write of consecutive bytes of `STATE` or `PAD` (R51, R267) -/
  | memWrite (sp : Space) (addr : Nat) (bytes : List Byte)
  /-- a read of consecutive bytes of `STATE` or `PAD` (R51, R267) -/
  | memRead (sp : Space) (addr len : Nat)
  /-- the host does nothing while the engine makes one micro-step, if it is running (log 9) -/
  | tick
  /-- `rst` is asserted (R260, R261) -/
  | reset
deriving DecidableEq, Repr

/-- What a read returned to the host. -/
inductive Reply where
  /-- a read on the control port -/
  | ctl (value : Word)
  /-- a read of a memory, the byte at the lowest address first -/
  | mem (bytes : List Byte)
deriving DecidableEq, Repr

/-- Why the machine stops with a fault. The engine's own two faults (R230) are next states, not these. -/
inductive Fault where
  /-- Raised by a host read or write of a byte address outside the named space (R37: `STATE` has 192 bytes, `PAD` has
  `MEM`). The engine itself never raises it (R58). Safe: the model stops. -/
  | hostOutOfRange (sp : Space)
deriving DecidableEq, Repr

/-- Why the machine gives no step. -/
inductive Refusal where
  /-- Raised by an arm of `exec` whose instruction has no meaning yet. Safe: the model stops. -/
  | notModelled (mnemonic : String)
  /-- Raised by a host read or write of `STATE` or `PAD` while `STATUS.BUSY = 1`, a breach of R266 that the spec leaves
  undefined and says to refuse (U4). Safe: the model stops. -/
  | hostMemoryWhileBusy
deriving DecidableEq, Repr

/-- The whole state: the engine's registers, its two memories, and the model's own host port. -/
structure State where
  /-- lane registers `X[0..7]`, `none` where the validity bit is 0 (R20, R22, U5) -/
  x : Vector (Option Block) 8
  /-- round-key registers `K[0..9]`, `none` where the validity bit is 0 (R22, U5) -/
  k : Vector (Option Block) 10
  /-- the sequencer (R27) -/
  seq : Sequencer
  /-- `STATUS` (R32) -/
  status : Status
  /-- `CFG.PREFETCH_EN` (R34) -/
  prefetchEn : Bool
  /-- `FAULTCMD` (R33) -/
  faultCmd : Word
  /-- `MEM`, read as `MEMBLKS = N` (R35); no operation changes it -/
  geometry : Geometry
  /-- the bytes written to `STATE` (R37, R38) -/
  stateMem : Memory
  /-- the bytes written to `PAD` (R37, R39) -/
  padMem : Memory
  /-- the model's own (log 7): the command between acceptance and completion -/
  running : Option Instr
  /-- the model's own (log 1): the host's actions still to come, the next one first -/
  pending : List HostAction
  /-- the model's own (log 9): what the host's reads returned, the latest first -/
  replies : List Reply
  /-- the model's own (log 8): how many commands were aborted, the argument of the free value `Config.abortedByte` -/
  draws : Nat
deriving DecidableEq, Repr

/-- Power-up with a given build-time `MEM` (R42, R260): the engine reset, no byte of a memory written, no host action. -/
def State.powerUp (g : Geometry) : State :=
  { x := Vector.replicate 8 none
    k := Vector.replicate 10 none
    seq := ⟨.none, .idle, 0⟩
    status := ⟨false, false, .none⟩
    prefetchEn := false
    faultCmd := 0#32
    geometry := g
    stateMem := []
    padMem := []
    running := none
    pending := []
    replies := []
    draws := 0 }

/-- The machine right after reset, in the reference configuration of R10 (log 3). -/
def State.reset : State := State.powerUp Config.referenceGeometry

end Sys2Proof.Machine
end

