-- ==== Sys2Proof/Machine/Flags.lean ====
section
/-! DEFINITION. The status bits and the control registers as the host reads them. The engine has no arithmetic flags (R29). -/

namespace Sys2Proof.Machine

/-- The code of a cause in `STATUS` bits 7:4 (R32, R230). -/
def causeCode : Cause → BitVec 4
  | .none       => 0#4
  | .illegalCmd => 1#4
  | .noValue    => 2#4

/-- `STATUS` as read (R32): bit 0 `BUSY`, bit 1 `FAULT`, bits 7:4 `CAUSE`, the rest 0. -/
def statusWord (t : Status) : Word :=
  0#24 ++ causeCode t.cause ++ 0#2 ++ BitVec.ofBool t.fault ++ BitVec.ofBool t.busy

/-- `STATUS` after a fault with cause `c` (R234): `FAULT` and `CAUSE` set, `BUSY` 0. -/
def faulted (c : Cause) : Status := ⟨false, true, c⟩

/-- `CFG` as read (R34): bit 0 `PREFETCH_EN`, the rest 0. -/
def cfgWord (prefetchEn : Bool) : Word := 0#31 ++ BitVec.ofBool prefetchEn

/-- `MEMBLKS` as read (R35): `N`. -/
def memblksWord (g : Geometry) : Word := BitVec.ofNat 32 g.blocks

/-- What a read of `offset` on the control port returns (R30 to R36): the five registers by aligned 32-bit accesses, and 0
for every other offset or width and for the write-only `CMD`. -/
def ctlValue (s : State) (offset width : Nat) : Word :=
  if width = 32 then
    if offset = 0x04 then statusWord s.status
    else if offset = 0x08 then cfgWord s.prefetchEn
    else if offset = 0x0C then memblksWord s.geometry
    else if offset = 0x10 then s.faultCmd
    else 0#32
  else 0#32

end Sys2Proof.Machine
end

