-- ==== Sys2Proof/Machine/Operands.lean ====
section
/-! DEFINITION. Operand forms: which registers a command reads (R23), which sequence a command starts, and where a State
block stands (R215). -/

namespace Sys2Proof.Machine

/-- The `n` indices from `first` on. -/
def indices (first n : Nat) : List Nat := (List.range n).map fun j => first + j

/-- The lane registers that must hold a value (the "src" column of R23). -/
def sourceLanes : Instr → List Nat
  | .ldx _ _     => []
  | .stx d _     => [d.toNat]
  | .ldk _ _     => []
  | .stk _ _     => []
  | .aesrnd d _  => [d.toNat]
  | .kassist d _ => [d.toNat]
  | .kexp        => []
  | .round4 d _  => indices d.toNat 4
  | .round8 _    => indices 0 8
  | .net4 d      => indices d.toNat 4
  | .net8        => indices 0 8
  | .explode     => []
  | .implode     => []

/-- The round-key registers that must hold a value (the "src" column of R23). -/
def sourceKeys : Instr → List Nat
  | .ldx _ _     => []
  | .stx _ _     => []
  | .ldk _ _     => []
  | .stk k _     => [k.toNat]
  | .aesrnd _ k  => [k.toNat]
  | .kassist _ _ => []
  | .kexp        => [0, 1]
  | .round4 _ k  => [k.toNat]
  | .round8 k    => [k.toNat]
  | .net4 _      => indices 0 10
  | .net8        => indices 0 10
  | .explode     => []
  | .implode     => []

/-- The sequencer when a command has been accepted: `EXPLODE` and `IMPLODE` start their machine (R173, R193); no other
command changes the sequencer (R27, R214). -/
def startSequencer : Instr → Sequencer → Sequencer
  | .ldx _ _, q     => q
  | .stx _ _, q     => q
  | .ldk _ _, q     => q
  | .stk _ _, q     => q
  | .aesrnd _ _, q  => q
  | .kassist _ _, q => q
  | .kexp, q        => q
  | .round4 _ _, q  => q
  | .round8 _, q    => q
  | .net4 _, q      => q
  | .net8, q        => q
  | .explode, q     => ⟨.explode, .keygen, q.idx⟩
  | .implode, q     => ⟨.implode, .keygen, q.idx⟩

/-- The byte address of block `idx` in its space (R50, R215). -/
def blockAddress (idx : Nat) : Nat := 16 * idx

/-- The consecutive blocks a command writes (R65), as a space, a first block and a count: what an abort of the command
leaves unspecified (R261). -/
def writtenBlocks (g : Geometry) : Instr → Space × Nat × Nat
  | .ldx _ _     => (.state, 0, 0)
  | .stx _ b     => (.state, b.toNat, 1)
  | .ldk _ _     => (.state, 0, 0)
  | .stk _ b     => (.state, b.toNat, 1)
  | .aesrnd _ _  => (.state, 0, 0)
  | .kassist _ _ => (.state, 0, 0)
  | .kexp        => (.state, 0, 0)
  | .round4 _ _  => (.state, 0, 0)
  | .round8 _    => (.state, 0, 0)
  | .net4 _      => (.state, 0, 0)
  | .net8        => (.state, 0, 0)
  | .explode     => (.pad, 0, g.blocks)
  | .implode     => (.state, 4, 8)

end Sys2Proof.Machine
end

