-- ==== Sys2Proof/Machine/Ops.lean ====
section
/-! DEFINITION. The named operations over memory and registers, taking a fault, accepting and completing a command, reset. -/

namespace Sys2Proof.Machine

/-! ### Memory (R37, R50 to R54) -/

/-- The byte written last at an address, `none` where nothing has been written since power-up. -/
def Memory.lookup : Memory → Nat → Option Byte
  | [], _ => none
  | c :: rest, a => if c.1 = a then some c.2 else Memory.lookup rest a

/-- Write one byte, keeping addresses strictly rising. -/
def Memory.write : Memory → Nat → Byte → Memory
  | [], a, v => [(a, v)]
  | c :: rest, a, v =>
    if a < c.1 then (a, v) :: c :: rest
    else if a = c.1 then (a, v) :: rest
    else c :: Memory.write rest a v

/-- The memory of a space. -/
def State.mem (s : State) : Space → Memory
  | .state => s.stateMem
  | .pad   => s.padMem

/-- Replace the memory of a space. -/
def State.setMem (s : State) (sp : Space) (m : Memory) : State :=
  match sp with
  | .state => { s with stateMem := m }
  | .pad   => { s with padMem := m }

/-- The size of a space in bytes (R37). -/
def State.spaceSize (s : State) : Space → Nat
  | .state => 192
  | .pad   => s.geometry.mem

/-- One byte of a memory. A byte nothing has written holds its free power-up value (R40, log 4). -/
def State.readByte (s : State) (sp : Space) (a : Nat) : Byte :=
  ((s.mem sp).lookup a).getD (Config.powerUpByte sp a)

/-- Write one byte of a memory (R54). -/
def State.writeByte (s : State) (sp : Space) (a : Nat) (v : Byte) : State :=
  s.setMem sp ((s.mem sp).write a v)

/-- Write consecutive bytes, the first at `a`. -/
def State.writeBytes (s : State) (sp : Space) : Nat → List Byte → State
  | _, [] => s
  | a, v :: rest => (s.writeByte sp a v).writeBytes sp (a + 1) rest

/-- The `n` bytes from `a` on. -/
def State.readBytes (s : State) (sp : Space) (a n : Nat) : List Byte := (indices a n).map (s.readByte sp)

/-- The sixteen bytes of a block in memory order (R16). -/
def blockBytes (b : Block) : List Byte := (List.range 16).map (byteOf b)

/-- `MemRead(space, 16*idx, 16)` (R19, R50). -/
def State.readBlock (s : State) (sp : Space) (idx : Nat) : Block :=
  blockOfBytes fun i => s.readByte sp (blockAddress idx + i)

/-- `MemWrite(space, 16*idx, 16, v)` (R19, R50). -/
def State.writeBlock (s : State) (sp : Space) (idx : Nat) (v : Block) : State :=
  s.writeBytes sp (blockAddress idx) (blockBytes v)

/-- The `n` blocks from `idx` on, in order. -/
def State.readBlocks (s : State) (sp : Space) (idx n : Nat) : List Block := (indices idx n).map (s.readBlock sp)

/-- Write consecutive blocks, the first at `idx`, in order (R60). -/
def State.writeBlocks (s : State) (sp : Space) : Nat → List Block → State
  | _, [] => s
  | idx, v :: rest => (s.writeBlock sp idx v).writeBlocks sp (idx + 1) rest

/-! ### Registers (R20 to R25) -/

/-- Lane register `d`, `none` where it holds no value (R22). -/
def State.lane (s : State) (d : Nat) : Option Block := (s.x[d]?).join

/-- Round-key register `k`, `none` where it holds no value (R22). -/
def State.key (s : State) (k : Nat) : Option Block := (s.k[k]?).join

/-- The data bits of a lane register; free where it holds no value (R22, U5, log 6). -/
def State.laneData (s : State) (d : Nat) : Block := (s.lane d).getD (Config.emptyLaneData d)

/-- The data bits of a round-key register; free where it holds no value (R22, U5, log 6). -/
def State.keyData (s : State) (k : Nat) : Block := (s.key k).getD (Config.emptyKeyData k)

/-- `X[d] <- v`: the register then holds a value (R19, R22). -/
def State.setLane (s : State) (d : Nat) (v : Block) : State := { s with x := s.x.setIfInBounds d (some v) }

/-- `K[k] <- v` (R19, R22). -/
def State.setKey (s : State) (k : Nat) (v : Block) : State := { s with k := s.k.setIfInBounds k (some v) }

/-- The data of `n` lanes from `d` on. -/
def State.lanes (s : State) (d n : Nat) : List Block := (indices d n).map s.laneData

/-- The data of `K[0..9]`. -/
def State.keys (s : State) : List Block := (indices 0 10).map s.keyData

/-- Write consecutive lanes, the first at `d`. -/
def State.setLanes (s : State) : Nat → List Block → State
  | _, [] => s
  | d, v :: rest => (s.setLane d v).setLanes (d + 1) rest

/-- Write consecutive round keys, the first at `k`. -/
def State.setKeys (s : State) : Nat → List Block → State
  | _, [] => s
  | k, v :: rest => (s.setKey k v).setKeys (k + 1) rest

/-- `X[0..7] <- none`, `K[0..9] <- none` (R19, R25). -/
def State.destroyRegisters (s : State) : State :=
  { s with x := Vector.replicate 8 none, k := Vector.replicate 10 none }

/-- `OP <- NONE`, `PHASE <- IDLE`, `IDX <- 0` (R27). -/
def State.idleSequencer (s : State) : State := { s with seq := ⟨.none, .idle, 0⟩ }

/-! ### Issue and fault (R91, R231 to R236) -/

/-- Every source register of a command holds a value (R23, R232). -/
def sourcesHeld (i : Instr) (s : State) : Bool :=
  (sourceLanes i).all (fun d => (s.lane d).isSome) && (sourceKeys i).all (fun k => (s.key k).isSome)

/-- The fault a command meets before it has any effect, illegal operands first (R91, R233). -/
def commandFault (i : Instr) (s : State) : Cause :=
  if i.wellFormed = false then .illegalCmd
  else if sourcesHeld i s = false then .noValue
  else .none

/-- TAKING A FAULT with cause `c` for the word `w` (R234): `STATUS` and `FAULTCMD` are written and nothing else changes.
There is no handler and no return; the way out is reset (R236). -/
def raiseFault (c : Cause) (w : Word) (s : State) : State := { s with status := faulted c, faultCmd := w }

/-- Acceptance (R91): `STATUS.BUSY <- 1`, and the sequencer starts for `EXPLODE` and `IMPLODE` (R173, R193). -/
def acceptCommand (i : Instr) (s : State) : State :=
  { s with
    status := { s.status with busy := true }
    running := some i
    seq := startSequencer i s.seq }

/-- Completion (R91, R269): `STATUS.BUSY <- 0`. -/
def completeCommand (s : State) : State :=
  { s with status := { s.status with busy := false }, running := none }

/-- One command from issue to completion (R91, R266): the two checks before any effect, then acceptance, the command's own
effect, and completion. -/
def runCommand (i : Instr) (s : State) (effect : State → State) : Host.Outcome State Fault Refusal :=
  match commandFault i s with
  | .none => .next (completeCommand (effect (acceptCommand i s)))
  | c     => .next (raiseFault c (encode i) s)

/-! ### Reset (R260, R261) -/

/-- The engine registers at their reset values (R42, R260); the memories keep their bytes. -/
def State.resetEngine (s : State) : State :=
  { s with
    x := Vector.replicate 8 none
    k := Vector.replicate 10 none
    seq := ⟨.none, .idle, 0⟩
    status := ⟨false, false, .none⟩
    prefetchEn := false
    faultCmd := 0#32
    running := none }

/-- Leave `n` bytes from `a` on with the free contents of the `draws`-th abort (R261, U7, log 8). -/
def State.leaveUnspecified (s : State) (sp : Space) : Nat → Nat → State
  | _, 0 => s
  | a, n + 1 => (s.writeByte sp a (Config.abortedByte s.draws sp a)).leaveUnspecified sp (a + 1) n

/-- What an abort does to memory: every block the running command writes becomes unspecified (R261). -/
def abortRunning (s : State) : State :=
  match s.running with
  | none => s
  | some i =>
    let (sp, first, count) := writtenBlocks s.geometry i
    { s.leaveUnspecified sp (blockAddress first) (16 * count) with draws := s.draws + 1 }

/-- `rst` is asserted (R260); during a command it aborts the command (R261). -/
def resetInput (s : State) : State := (abortRunning s).resetEngine

end Sys2Proof.Machine
end

