-- ==== Sys2Proof/Machine/AesPrimitive.lean ====
section
/-! DEFINITION. The AES primitive commands: AESRND, KASSIST (R114, R115). -/

namespace Sys2Proof.Machine

/-- `AESRND d, k` (R114): `X[d] <- encrypt_round(X[d], K[k])`. -/
def execAesrnd (d k : BitVec 4) (s : State) : Host.Outcome State Fault Refusal :=
  runCommand (.aesrnd d k) s fun t =>
    t.setLane d.toNat (encryptRound (t.laneData d.toNat) (t.keyData k.toNat))

/-- `KASSIST d, imm` (R115): `X[d] <- key_schedule_assist(X[d], imm)`. -/
def execKassist (d : BitVec 4) (rcon : Byte) (s : State) : Host.Outcome State Fault Refusal :=
  runCommand (.kassist d rcon) s fun t =>
    t.setLane d.toNat (keyScheduleAssist (t.laneData d.toNat) rcon)

end Sys2Proof.Machine
end

