-- ==== Sys2Proof/Machine/Explode.lean ====
section
/-! DEFINITION. The scratchpad expander: EXPLODE as one command (R172) and the rows of its state machine (R173). -/

namespace Sys2Proof.Machine

/-- One sweep of `EXPLODE` (R172) over `n` windows from index `i` on: encrypt the lanes, then store them at `i + off ..`. -/
def explodeSweep (keys : List Block) (off : Nat) : Nat → Nat → List Block → State → State
  | 0, _, _, s => s
  | n + 1, i, lanes, s =>
    explodeSweep keys off n (i + 8) (net lanes keys) (s.writeBlocks .pad (i + off) (net lanes keys))

/-- The effect of `EXPLODE` (R172): group A's sweep, group B's sweep, the registers destroyed. The keys and lanes are the
command's own transient values (R25); the sequencer ends idle (R27). -/
def explodeEffect (s : State) : State :=
  let keys := keyExpand (s.readBlock .state 0) (s.readBlock .state 1)
  let a := explodeSweep keys 0 s.geometry.windows 0 (s.readBlocks .state 4 4) s
  let b := explodeSweep keys 4 a.geometry.windows 0 (a.readBlocks .state 8 4) a
  b.destroyRegisters.idleSequencer

/-- `EXPLODE` (R172). -/
def execExplode (s : State) : Host.Outcome State Fault Refusal :=
  runCommand .explode s explodeEffect

/-- The sweep row of R173 for the lane group whose blocks stand at `off` in a window. -/
def explodeSweepRow (off : Nat) (s : State) : State :=
  let lanes := net (s.lanes 0 4) s.keys
  let t := (s.setLanes 0 lanes).writeBlocks .pad (s.seq.idx + off) lanes
  { t with seq := { s.seq with idx := s.seq.idx + 8 } }

/-- One micro-step of the expander, by the row of R173 that `PHASE` selects. `STORE_A`, `STORE_B` and `IDLE` have no row:
the machine stays where it is (log 17). -/
def explodeRow (s : State) : State :=
  match s.seq.phase with
  | .keygen =>
    { s.setKeys 0 (keyExpand (s.readBlock .state 0) (s.readBlock .state 1)) with
      seq := { s.seq with phase := .loadA } }
  | .loadA =>
    { s.setLanes 0 (s.readBlocks .state 4 4) with seq := { s.seq with phase := .sweepA, idx := 0 } }
  | .sweepA =>
    if s.seq.idx < s.geometry.blocks then explodeSweepRow 0 s
    else { s with seq := { s.seq with phase := .loadB } }
  | .loadB =>
    { s.setLanes 0 (s.readBlocks .state 8 4) with seq := { s.seq with phase := .sweepB, idx := 0 } }
  | .sweepB =>
    if s.seq.idx < s.geometry.blocks then explodeSweepRow 4 s
    else completeCommand s.destroyRegisters.idleSequencer
  | .storeA => s
  | .storeB => s
  | .idle   => s

end Sys2Proof.Machine
end

