-- ==== Sys2Proof/Machine/Implode.lean ====
section
/-! DEFINITION. The scratchpad folder: IMPLODE as one command (R191, R192) and the rows of its state machine (R193). -/

namespace Sys2Proof.Machine

/-- `X[j] xor P[..+j]`, lane by lane (R191). -/
def xorLanes (lanes blocks : List Block) : List Block := List.zipWith (fun x p => x ^^^ p) lanes blocks

/-- One sweep of `IMPLODE` (R191, R192) over `n` windows from index `i` on: xor the lanes with the blocks `pad (i + off) ..`,
then encrypt. It answers the final lanes. -/
def implodeSweep (keys : List Block) (pad : Nat → Block) (off : Nat) : Nat → Nat → List Block → List Block
  | 0, _, lanes => lanes
  | n + 1, i, lanes =>
    implodeSweep keys pad off n (i + 8) (net (xorLanes lanes ((indices (i + off) 4).map pad)) keys)

/-- The effect of `IMPLODE` (R192): group A's sweep and store, group B's sweep and store, the registers destroyed. -/
def implodeEffect (s : State) : State :=
  let keys := keyExpand (s.readBlock .state 2) (s.readBlock .state 3)
  let a := s.writeBlocks .state 4
    (implodeSweep keys (s.readBlock .pad) 0 s.geometry.windows 0 (s.readBlocks .state 4 4))
  let b := a.writeBlocks .state 8
    (implodeSweep keys (a.readBlock .pad) 4 a.geometry.windows 0 (a.readBlocks .state 8 4))
  b.destroyRegisters.idleSequencer

/-- `IMPLODE` (R192). -/
def execImplode (s : State) : Host.Outcome State Fault Refusal :=
  runCommand .implode s implodeEffect

/-- The sweep row of R193 for the lane group whose blocks stand at `off` in a window. -/
def implodeSweepRow (off : Nat) (s : State) : State :=
  { s.setLanes 0 (net (xorLanes (s.lanes 0 4) (s.readBlocks .pad (s.seq.idx + off) 4)) s.keys) with
    seq := { s.seq with idx := s.seq.idx + 8 } }

/-- One micro-step of the folder, by the row of R193 that `PHASE` selects. `IDLE` has no row: the machine stays where it is
(log 17). -/
def implodeRow (s : State) : State :=
  match s.seq.phase with
  | .keygen =>
    { s.setKeys 0 (keyExpand (s.readBlock .state 2) (s.readBlock .state 3)) with
      seq := { s.seq with phase := .loadA } }
  | .loadA =>
    { s.setLanes 0 (s.readBlocks .state 4 4) with seq := { s.seq with phase := .sweepA, idx := 0 } }
  | .sweepA =>
    if s.seq.idx < s.geometry.blocks then implodeSweepRow 0 s
    else { s with seq := { s.seq with phase := .storeA } }
  | .storeA =>
    { s.writeBlocks .state 4 (s.lanes 0 4) with seq := { s.seq with phase := .loadB } }
  | .loadB =>
    { s.setLanes 0 (s.readBlocks .state 8 4) with seq := { s.seq with phase := .sweepB, idx := 0 } }
  | .sweepB =>
    if s.seq.idx < s.geometry.blocks then implodeSweepRow 4 s
    else { s with seq := { s.seq with phase := .storeB } }
  | .storeB =>
    completeCommand (s.writeBlocks .state 8 (s.lanes 0 4)).destroyRegisters.idleSequencer
  | .idle => s

end Sys2Proof.Machine
end

