-- ==== Sys2Proof/Machine/KeySchedule.lean ====
section
/-! DEFINITION. The key schedule expander: KEXP (R137). -/

namespace Sys2Proof.Machine

/-- `KEXP` (R137): `K[2..9]` become `k2..k9` of `key_expand(K[0], K[1])`; `K[0]` and `K[1]` are `k0` and `k1` already. -/
def execKexp (s : State) : Host.Outcome State Fault Refusal :=
  runCommand .kexp s fun t => t.setKeys 2 ((keyExpand (t.keyData 0) (t.keyData 1)).drop 2)

end Sys2Proof.Machine
end

