-- ==== Sys2Proof/Machine/RegisterTransfer.lean ====
section
/-! DEFINITION. Register transfer: LDX, STX, LDK, STK (R210 to R215). -/

namespace Sys2Proof.Machine

/-- `LDX d, s` (R210): `X[d] <- State[s]`. -/
def execLdx (d b : BitVec 4) (s : State) : Host.Outcome State Fault Refusal :=
  runCommand (.ldx d b) s fun t => t.setLane d.toNat (t.readBlock .state b.toNat)

/-- `STX d, s` (R211): `State[s] <- X[d]`. -/
def execStx (d b : BitVec 4) (s : State) : Host.Outcome State Fault Refusal :=
  runCommand (.stx d b) s fun t => t.writeBlock .state b.toNat (t.laneData d.toNat)

/-- `LDK k, s` (R212): `K[k] <- State[s]`. -/
def execLdk (k b : BitVec 4) (s : State) : Host.Outcome State Fault Refusal :=
  runCommand (.ldk k b) s fun t => t.setKey k.toNat (t.readBlock .state b.toNat)

/-- `STK k, s` (R213): `State[s] <- K[k]`. -/
def execStk (k b : BitVec 4) (s : State) : Host.Outcome State Fault Refusal :=
  runCommand (.stk k b) s fun t => t.writeBlock .state b.toNat (t.keyData k.toNat)

end Sys2Proof.Machine
end

