-- ==== Sys2Proof/Machine/RoundNetwork.lean ====
section
/-! DEFINITION. The round network: ROUND4, ROUND8, NET4, NET8 (R153 to R156). Every source is read before a lane is
written. -/

namespace Sys2Proof.Machine

/-- `ROUND4 d, k` (R153): one round with `K[k]` on `X[d..d+3]`. -/
def execRound4 (d k : BitVec 4) (s : State) : Host.Outcome State Fault Refusal :=
  runCommand (.round4 d k) s fun t =>
    t.setLanes d.toNat (roundN (t.lanes d.toNat 4) (t.keyData k.toNat))

/-- `ROUND8 k` (R154): one round with `K[k]` on `X[0..7]`. -/
def execRound8 (k : BitVec 4) (s : State) : Host.Outcome State Fault Refusal :=
  runCommand (.round8 k) s fun t => t.setLanes 0 (roundN (t.lanes 0 8) (t.keyData k.toNat))

/-- `NET4 d` (R155): the network with `K[0..9]` on `X[d..d+3]`. -/
def execNet4 (d : BitVec 4) (s : State) : Host.Outcome State Fault Refusal :=
  runCommand (.net4 d) s fun t => t.setLanes d.toNat (net (t.lanes d.toNat 4) t.keys)

/-- `NET8` (R156): the network with `K[0..9]` on `X[0..7]`. -/
def execNet8 (s : State) : Host.Outcome State Fault Refusal :=
  runCommand .net8 s fun t => t.setLanes 0 (net (t.lanes 0 8) t.keys)

end Sys2Proof.Machine
end

