-- ==== Sys2Proof/Machine/Dispatch.lean ====
section
/-! DEFINITION. One arm for each command of the opcode table. -/

namespace Sys2Proof.Machine

/-- What a command does when it is issued to an engine that is idle and not faulted (R91). -/
def exec (i : Instr) (s : State) : Host.Outcome State Fault Refusal :=
  match i with
  | .ldx d b => Sys2Proof.Machine.execLdx d b s
  | .stx d b => Sys2Proof.Machine.execStx d b s
  | .ldk k b => Sys2Proof.Machine.execLdk k b s
  | .stk k b => Sys2Proof.Machine.execStk k b s
  | .aesrnd d k => Sys2Proof.Machine.execAesrnd d k s
  | .kassist d rcon => Sys2Proof.Machine.execKassist d rcon s
  | .kexp => Sys2Proof.Machine.execKexp s
  | .round4 d k => Sys2Proof.Machine.execRound4 d k s
  | .round8 k => Sys2Proof.Machine.execRound8 k s
  | .net4 d => Sys2Proof.Machine.execNet4 d s
  | .net8 => Sys2Proof.Machine.execNet8 s
  | .explode => Sys2Proof.Machine.execExplode s
  | .implode => Sys2Proof.Machine.execImplode s

end Sys2Proof.Machine
end

