-- ==== Sys2Proof/Machine/HostPort.lean ====
section
/-! DEFINITION. The running engine's micro-step, and what each host action does (R31, R34, R91, R235, R260 to R270). -/

namespace Sys2Proof.Machine

/-- One micro-step of a busy engine: a row of the expander or folder where the sequencer is running (R173, R193), else the
whole of the accepted component command, which is straight-line (R273, log 12). -/
def engineStep (s : State) : Host.Outcome State Fault Refusal :=
  match s.seq.op with
  | .explode => .next (explodeRow s)
  | .implode => .next (implodeRow s)
  | .none =>
    match s.running with
    | some i => exec i s
    | none   => .next (completeCommand s)

/-- A blocking write of `w` to `CMD` on an idle engine (R91): discarded where a fault has halted the engine (R235), else
decoded, checked and run to completion. -/
def callCommand (w : Word) (s : State) : Host.Outcome State Fault Refusal :=
  if s.status.fault then .next s
  else
    match decode w with
    | .error _ => .next (raiseFault .illegalCmd w s)
    | .ok i    => exec i s

/-- A posted write of `w` to `CMD` on an idle engine (R91): as `callCommand`, but it returns at acceptance. -/
def postCommand (w : Word) (s : State) : State :=
  if s.status.fault then s
  else
    match decode w with
    | .error _ => raiseFault .illegalCmd w s
    | .ok i =>
      match commandFault i s with
      | .none => acceptCommand i s
      | c     => raiseFault c w s

/-- A write on the control port that is not held off: `CMD` (R31), `CFG` (R34); every other register, offset or width
ignores it (R30, R36). -/
def ctlWrite (offset width : Nat) (v : Word) (s : State) : State :=
  if width = 32 then
    if offset = 0x00 then postCommand v s
    else if offset = 0x08 then { s with prefetchEn := v.getLsbD 0 }
    else s
  else s

/-- The writes that the control port holds off while `BUSY = 1` (R268): to `CMD` and to `CFG`. -/
def heldOff (offset width : Nat) : Bool := width = 32 && (offset = 0x00 || offset = 0x08)

/-- The byte range lies in its space (R37). -/
def inRange (s : State) (sp : Space) (a n : Nat) : Bool := a + n ≤ s.spaceSize sp

/-- A read of a memory by the host (R51, R266, R267; logs 10 and 11). -/
def hostRead (sp : Space) (a n : Nat) (s : State) : Host.Outcome State Fault Refusal :=
  if s.status.busy then .refused .hostMemoryWhileBusy
  else if inRange s sp a n then .next { s with replies := .mem (s.readBytes sp a n) :: s.replies }
  else .fault (.hostOutOfRange sp)

/-- A write of a memory by the host (R51, R266, R267; logs 10 and 11). -/
def hostWrite (sp : Space) (a : Nat) (bytes : List Byte) (s : State) : Host.Outcome State Fault Refusal :=
  if s.status.busy then .refused .hostMemoryWhileBusy
  else if inRange s sp a bytes.length then .next (s.writeBytes sp a bytes)
  else .fault (.hostOutOfRange sp)

/-- One host action. `s` is the state with the action taken from the queue, `held` the state with the action still in it: a
write that is held off stays, and the engine makes a micro-step (R268). -/
def hostStep (a : HostAction) (held s : State) : Host.Outcome State Fault Refusal :=
  match a with
  | .call w => if s.status.busy then engineStep held else callCommand w s
  | .ctlWrite offset width v =>
    if s.status.busy && heldOff offset width then engineStep held else .next (ctlWrite offset width v s)
  | .ctlRead offset width => .next { s with replies := .ctl (ctlValue s offset width) :: s.replies }
  | .memWrite sp addr bytes => hostWrite sp addr bytes s
  | .memRead sp addr n => hostRead sp addr n s
  | .tick => if s.status.busy then engineStep s else .next s
  | .reset => .next (resetInput s)

/-- One step: the next host action; with none to come, a busy engine makes a micro-step and an idle one waits (R245). -/
def portStep (s : State) : Host.Outcome State Fault Refusal :=
  match s.pending with
  | [] => if s.status.busy then engineStep s else .next s
  | a :: rest => hostStep a s { s with pending := rest }

/-- The state in which the host's next action is the blocking write of a command word to `CMD`. A command word is 32 bits
(R80, R86); higher bits of `w` do not reach the register. -/
def queueCommandWord (s : State) (nbits w : Nat) : State :=
  { s with pending := .call (BitVec.ofNat 32 (w % 2 ^ nbits)) :: s.pending }

end Sys2Proof.Machine
end

