-- ==== Sys2Proof/Machine/Step.lean ====
section
/-! DEFINITION. The machine's step, and where its next command stands: the engine fetches nothing (R28, R64), so the next
command is the host's next write to `CMD` (log 1). -/

namespace Sys2Proof.Machine

/-- One step of the machine. -/
def step (s : State) : Host.Outcome State Fault Refusal := portStep s

/-- `s` with a command word as the host's next write to `CMD` (log 1). -/
def State.withFetchWord (s : State) (nbits w : Nat) : State := queueCommandWord s nbits w

end Sys2Proof.Machine
end

