-- ==== Sys2Proof/Machine/Reference.lean ====
section
/-! DEFINITION. The spec's reference forms that claims compare the machine with: the source registers of R23 and the blocks
of R261 as the spec lists them, the AES-256 recurrence (R135) byte by byte, the pure functions and closed forms of EXPLODE
(R171, R176, R177) and IMPLODE (R196). No step of the machine uses them. -/

namespace Sys2Proof.Machine

/-- A register in the "src" column of R23 holds no value: the table row by row. -/
def sourceEmpty (s : State) : Instr → Prop
  | .ldx _ _     => False
  | .stx d _     => s.lane d.toNat = none
  | .ldk _ _     => False
  | .stk k _     => s.key k.toNat = none
  | .aesrnd d k  => s.lane d.toNat = none ∨ s.key k.toNat = none
  | .kassist d _ => s.lane d.toNat = none
  | .kexp        => s.key 0 = none ∨ s.key 1 = none
  | .round4 d k  => (∃ j, j < 4 ∧ s.lane (d.toNat + j) = none) ∨ s.key k.toNat = none
  | .round8 k    => (∃ j, j < 8 ∧ s.lane j = none) ∨ s.key k.toNat = none
  | .net4 d      => (∃ j, j < 4 ∧ s.lane (d.toNat + j) = none) ∨ ∃ r, r < 10 ∧ s.key r = none
  | .net8        => (∃ j, j < 8 ∧ s.lane j = none) ∨ ∃ r, r < 10 ∧ s.key r = none
  | .explode     => False
  | .implode     => False

/-- Block `q` of the space `sp` is one that R261 leaves unspecified when the command is aborted: all of `PAD` for `EXPLODE`,
`State[4..11]` for `IMPLODE`, the one block of `STX` or `STK`. -/
def abortedBlock (g : Geometry) (sp : Space) (q : Nat) : Instr → Prop
  | .ldx _ _     => False
  | .stx _ b     => sp = .state ∧ q = b.toNat
  | .ldk _ _     => False
  | .stk _ b     => sp = .state ∧ q = b.toNat
  | .aesrnd _ _  => False
  | .kassist _ _ => False
  | .kexp        => False
  | .round4 _ _  => False
  | .round8 _    => False
  | .net4 _      => False
  | .net8        => False
  | .explode     => sp = .pad ∧ q < g.blocks
  | .implode     => sp = .state ∧ 4 ≤ q ∧ q ≤ 11

/-- `Rcon(n) = xtime^(n-1)(0x01)` (R135). -/
def fipsRcon (n : Nat) : Byte := xtime^[n - 1] 0x01#8

/-- `w[i]` of R135 from the words before it, `w[i-1]` first in the list; `SubWord` and `RotWord` are written out on the
bytes `[a0, a1, a2, a3]` of `w[i-1]` (R110, R111). -/
def fipsNext (i : Nat) (before : List Word) : Word :=
  let t := before.getD 0 0#32
  let a := byteOfWord t
  before.getD 7 0#32 ^^^
    (if i % 8 = 0 then wordOfBytes (sbox (a 1) ^^^ fipsRcon (i / 8)) (sbox (a 2)) (sbox (a 3)) (sbox (a 0))
     else if i % 8 = 4 then wordOfBytes (sbox (a 0)) (sbox (a 1)) (sbox (a 2)) (sbox (a 3))
     else t)

/-- The words `w[n+7], ..., w[0]` of R135 for the key `k_lo ++ k_hi`. -/
def fipsWords (lo hi : Block) : Nat → List Word
  | 0 => [wordOf hi 3, wordOf hi 2, wordOf hi 1, wordOf hi 0, wordOf lo 3, wordOf lo 2, wordOf lo 1, wordOf lo 0]
  | n + 1 => fipsNext (n + 8) (fipsWords lo hi n) :: fipsWords lo hi n

/-- `w[j]` of R135, for `j` below 40. -/
def fipsWord (lo hi : Block) (j : Nat) : Word := (fipsWords lo hi 32).reverse.getD j 0#32

/-- The reference round key `r` of R135. -/
def fipsKey (lo hi : Block) (r : Nat) : Block :=
  blockOfWords (fipsWord lo hi (4 * r)) (fipsWord lo hi (4 * r + 1)) (fipsWord lo hi (4 * r + 2))
    (fipsWord lo hi (4 * r + 3))

/-- The lanes after each iteration of a sweep of R171. -/
def sweepLanes (keys : List Block) : Nat → List Block → List (List Block)
  | 0, _ => []
  | n + 1, lanes => net lanes keys :: sweepLanes keys n (net lanes keys)

/-- `explode(S, N)` of R171, the blocks `P[0..N-1]`, for `n = N/8` windows: group A's quadruplet, then group B's, in each
window. -/
def explodeFunction (S : Nat → Block) (n : Nat) : List Block :=
  let keys := keyExpand (S 0) (S 1)
  (List.zipWith (fun a b => a ++ b) (sweepLanes keys n [S 4, S 5, S 6, S 7])
    (sweepLanes keys n [S 8, S 9, S 10, S 11])).flatten

/-- The single-pass form of R177: one 8-lane network per window, all eight blocks stored. -/
def explodeOnePass (S : Nat → Block) (n : Nat) : List Block :=
  (sweepLanes (keyExpand (S 0) (S 1)) n [S 4, S 5, S 6, S 7, S 8, S 9, S 10, S 11]).flatten

/-- `P[q]` by the closed form of R176. -/
def explodedBlock (S : Nat → Block) (q : Nat) : Block :=
  (netLane (keyExpand (S 0) (S 1)))^[q / 8 + 1] (S (4 + q % 8))

/-- The chain `c_j(m)` of R196: the lane value after `m` windows. -/
def implodeChain (keys : List Block) (P : Nat → Block) (j : Nat) (start : Block) : Nat → Block
  | 0 => start
  | m + 1 => netLane keys (implodeChain keys P j start m ^^^ P (8 * m + j))

/-- `S'[4 + j]` by the closed form of R196, for `n = N/8` windows. -/
def foldedBlock (P S : Nat → Block) (n j : Nat) : Block :=
  implodeChain (keyExpand (S 2) (S 3)) P j (S (4 + j)) n

end Sys2Proof.Machine
end

