-- ==== Sys2Proof/Safety.lean ====
section
/-! DEFINITION. What counts as a good run and a legal state, and what claims mean by "nothing else changes". -/

namespace Sys2Proof.Machine

/-! ### The end of a run (R270) -/

/-- The run has ended: no host action to come and `BUSY = 0` (R270). -/
def State.ended (s : State) : Prop := s.pending = [] ∧ s.status.busy = false

/-- A good end state (R270): ended, with `FAULT = 0`. -/
def State.goodEnd (s : State) : Prop := s.ended ∧ s.status.fault = false

/-- The engine takes a command: `BUSY = 0` and `FAULT = 0` (R31, R91). -/
def State.ready (s : State) : Prop := s.status.busy = false ∧ s.status.fault = false

/-! ### Legal states -/

/-- Both memories are in canonical form, and list only addresses that exist (R37). -/
abbrev State.memoryLegal (s : State) : Prop :=
  Memory.wf s.stateMem ∧ Memory.wf s.padMem ∧
  (∀ c ∈ s.stateMem, c.1 < 192) ∧ (∀ c ∈ s.padMem, c.1 < s.geometry.mem)

/-- `FAULT` is 1 exactly when `CAUSE` is not 0, `BUSY` and `FAULT` are never both 1, and `FAULTCMD` is 0 until a fault
(R32, R33). -/
abbrev State.statusLegal (s : State) : Prop :=
  (s.status.fault = true ↔ s.status.cause ≠ .none) ∧
  ¬(s.status.busy = true ∧ s.status.fault = true) ∧
  (s.status.fault = false → s.faultCmd = 0#32)

/-- The sequencer outside a running `EXPLODE` or `IMPLODE` (R27). -/
def restingSequencer : Sequencer := ⟨.none, .idle, 0⟩

/-- Every register of a list of lanes holds a value. -/
abbrev State.lanesHeld (s : State) (d n : Nat) : Prop := ∀ j ∈ indices d n, (s.lane j).isSome = true

/-- `K[0..9]` all hold values. -/
abbrev State.keysHeld (s : State) : Prop := ∀ j ∈ indices 0 10, (s.key j).isSome = true

/-- The index and the registers of a running machine, given the phases that need the lanes loaded (R27, R28). -/
abbrev State.sweepLegal (s : State) (lanePhases : List Phase) : Prop :=
  s.seq.idx % 8 = 0 ∧ s.seq.idx ≤ s.geometry.blocks ∧
  (s.seq.phase ≠ .keygen → s.keysHeld) ∧
  (s.seq.phase ∈ lanePhases → s.lanesHeld 0 4)

/-- The sequencer agrees with the command in progress (R27, R173, R193). -/
def State.sequencerLegal (s : State) (i : Instr) : Prop :=
  match i with
  | .explode =>
    s.seq.op = .explode ∧ s.seq.phase ∈ [Phase.keygen, .loadA, .sweepA, .loadB, .sweepB] ∧
    s.sweepLegal [.sweepA, .sweepB]
  | .implode =>
    s.seq.op = .implode ∧ s.seq.phase ≠ .idle ∧ s.sweepLegal [.sweepA, .storeA, .sweepB, .storeB]
  | i => s.seq = restingSequencer ∧ sourcesHeld i s = true

/-- `BUSY` and the sequencer agree with the command in progress. -/
def State.runningLegal (s : State) : Prop :=
  match s.running with
  | none   => s.status.busy = false ∧ s.seq = restingSequencer
  | some i => s.status.busy = true ∧ i.wellFormed = true ∧ s.sequencerLegal i

/-- The invariant of the machine. -/
structure State.Inv (s : State) : Prop where
  memory : s.memoryLegal
  status : s.statusLegal
  running : s.runningLegal

/-! ### Frames -/

/-- Every byte of both memories reads as before. -/
def sameMemories (s t : State) : Prop := ∀ sp a, t.readByte sp a = s.readByte sp a

/-- Every byte of both memories reads as before, but for the `n` bytes of `sp` from `a` on. -/
def sameMemoriesExcept (s t : State) (sp : Space) (a n : Nat) : Prop :=
  ∀ sp' a', (sp' = sp → a' < a ∨ a + n ≤ a') → t.readByte sp' a' = s.readByte sp' a'

/-- Every lane register is as before, but for the `n` lanes from `d` on. -/
def sameLanesExcept (s t : State) (d n : Nat) : Prop := ∀ j, j < d ∨ d + n ≤ j → t.lane j = s.lane j

/-- Every round-key register is as before, but for the `n` keys from `k` on. -/
def sameKeysExcept (s t : State) (k n : Nat) : Prop := ∀ j, j < k ∨ k + n ≤ j → t.key j = s.key j

/-- Every lane register is as before. -/
def sameLanes (s t : State) : Prop := ∀ j, t.lane j = s.lane j

/-- Every round-key register is as before. -/
def sameKeys (s t : State) : Prop := ∀ j, t.key j = s.key j

/-- No register of either file holds a value (R25). -/
def registersDestroyed (t : State) : Prop := (∀ j, t.lane j = none) ∧ (∀ j, t.key j = none)

/-- What no completed command changes: `FAULT`, `CAUSE`, `FAULTCMD`, `CFG`, `MEMBLKS` and the host port (R91, R214). -/
def sameControl (s t : State) : Prop :=
  t.status.fault = s.status.fault ∧ t.status.cause = s.status.cause ∧ t.faultCmd = s.faultCmd ∧
  t.prefetchEn = s.prefetchEn ∧ t.geometry = s.geometry ∧ t.pending = s.pending ∧ t.replies = s.replies ∧
  t.draws = s.draws

/-- A component command has completed from `s` in `t`: `BUSY = 0` and no command is in progress (R91), and the sequencer and
the control state are as before (R27, R214). -/
def completedFrom (s t : State) : Prop :=
  t.status.busy = false ∧ t.running = none ∧ t.seq = s.seq ∧ sameControl s t

/-- A top-level command has completed from `s` in `t`: as `completedFrom`, with the sequencer idle (R27). -/
def topLevelCompletedFrom (s t : State) : Prop :=
  t.status.busy = false ∧ t.running = none ∧ t.seq = restingSequencer ∧ sameControl s t

/-- Commands issued one after another to an engine that waits for each (R268). -/
def runAll : List Instr → State → Host.Outcome State Fault Refusal
  | [], s => .next s
  | i :: rest, s =>
    match exec i s with
    | .next t    => runAll rest t
    | .fault r   => .fault r
    | .refused r => .refused r

/-- The two faults leave everything but `STATUS` and `FAULTCMD` (R234): `t` is `s` after the fault `c` for the word `w`. -/
def faultedFrom (s t : State) (c : Cause) (w : Word) : Prop :=
  t.status.busy = false ∧ t.status.fault = true ∧ t.status.cause = c ∧ t.faultCmd = w ∧
  sameLanes s t ∧ sameKeys s t ∧ sameMemories s t ∧ t.seq = s.seq ∧ t.prefetchEn = s.prefetchEn ∧
  t.geometry = s.geometry ∧ t.running = s.running ∧ t.replies = s.replies ∧ t.draws = s.draws

/-- The registers of the engine at the values of R42. -/
def engineRegistersReset (t : State) : Prop :=
  (∀ j, t.lane j = none) ∧ (∀ j, t.key j = none) ∧ t.seq = restingSequencer ∧ t.running = none ∧
  statusWord t.status = 0#32 ∧ cfgWord t.prefetchEn = 0#32 ∧ t.faultCmd = 0#32 ∧
  memblksWord t.geometry = BitVec.ofNat 32 t.geometry.blocks

/-- The blocks of the State space a pure function reads. -/
def stateBlocks (s : State) : Nat → Block := s.readBlock .state

/-- The blocks of the Scratchpad space a pure function reads. -/
def padBlocks (s : State) : Nat → Block := s.readBlock .pad

end Sys2Proof.Machine
end

