-- ==== Sys2Proof/Certificates/Slice0/Obligations.lean ====
section
/-! DEFINITION. The statements for the provers, from the numbered rules of the spec. -/

open Sys2Proof Sys2Proof.Machine

/-! ### Command words (R80 to R90) -/

/-- R83 reads back from the word of R81 and R84 the command it was made from, with every operand at every value the
encoding admits. -/
def Obligations.DecodeOfEncodeReturnsTheCommand : Prop :=
  ∀ i : Instr, i.wellFormed = true → decode (encode i) = .ok i

/-- Each command word has one reading: a word that decodes is the word of the command it decodes to, and that command's
operands are in range (R83, R84). -/
def Obligations.EncodeOfDecodeReturnsTheWord : Prop :=
  ∀ (w : Word) (i : Instr), decode w = .ok i → i.wellFormed = true ∧ encode i = w

/-- R81: the five fields by their positions, unsigned, and the word as their sum. -/
def Obligations.CommandWordIsTheSumOfItsFields : Prop :=
  ∀ w : Word,
    (opField w).toNat = w.toNat % 256 ∧ (aField w).toNat = w.toNat / 256 % 16 ∧
    (bField w).toNat = w.toNat / 4096 % 16 ∧ (immField w).toNat = w.toNat / 65536 % 256 ∧
    (rsvField w).toNat = w.toNat / 16777216 ∧
    w.toNat = (opField w).toNat + 256 * (aField w).toNat + 4096 * (bField w).toNat +
      65536 * (immField w).toNat + 16777216 * (rsvField w).toNat

/-- The mask table of R84 and the arms of R83 are the same decoder: a word decodes to a command exactly when that command's
row of the table selects it. -/
def Obligations.OpcodeRowsSelectExactlyTheDecodedWords : Prop :=
  ∀ w : Word,
    (∀ i, decode w = .ok i → ∃ r ∈ opcodeRows, r.mnemonic = mnemonic i ∧ r.selects w) ∧
    (∀ r ∈ opcodeRows, r.selects w → ∃ i, decode w = .ok i ∧ mnemonic i = r.mnemonic)

/-- The example words of R90, legal and illegal. -/
def Obligations.ExampleWordsDecodeAsListed : Prop :=
  decode 0x00005301#32 = .ok (.ldx 3#4 5#4) ∧ decode 0x00001103#32 = .ok (.ldk 1#4 1#4) ∧
  decode 0x00004204#32 = .ok (.stk 2#4 4#4) ∧ decode 0x00009210#32 = .ok (.aesrnd 2#4 9#4) ∧
  decode 0x00010011#32 = .ok (.kassist 0#4 0x01#8) ∧ decode 0x00FF0711#32 = .ok (.kassist 7#4 0xFF#8) ∧
  decode 0x00000020#32 = .ok .kexp ∧ decode 0x00000430#32 = .ok (.round4 4#4 0#4) ∧
  decode 0x00003031#32 = .ok (.round8 3#4) ∧ decode 0x00000032#32 = .ok (.net4 0#4) ∧
  decode 0x00000432#32 = .ok (.net4 4#4) ∧ decode 0x00000033#32 = .ok .net8 ∧
  decode 0x00000040#32 = .ok .explode ∧ decode 0x00000041#32 = .ok .implode ∧
  decode 0x00000000#32 = .error .noSuchCommand ∧ decode 0x01000040#32 = .error .reservedBits ∧
  decode 0x0000C301#32 = .error .noSuchCommand ∧ decode 0x00000132#32 = .error .noSuchCommand ∧
  decode 0x0000A010#32 = .error .noSuchCommand ∧ decode 0x00010020#32 = .error .noSuchCommand

/-! ### Issue, faults and the halt (R91, R230 to R236) -/

/-- R91: a word that the host writes to `CMD` of an idle engine without a fault, and that decodes, is run. The step takes
the action from the host's queue and runs the command on the state so left. -/
def Obligations.StepRunsTheCalledCommand : Prop :=
  ∀ (s : State) (w : Word) (i : Instr) (rest : List HostAction),
    s.pending = .call w :: rest → s.ready → decode w = .ok i →
    step s = exec i { s with pending := rest }

/-- R91 for a posted write: with every source held, the step is the acceptance of the command: `BUSY` reads 1, the sequencer
is where the command starts it, and nothing else has changed. (That a posted
write ends its step at acceptance is log 2, DEDUCED; that the model holds the command in `running` is log 7 and that a
component command then waits one micro-step, with nothing done yet, is log 12, both DESIGN CHOICE.) -/
def Obligations.PostedCommandIsAccepted : Prop :=
  ∀ (s : State) (w : Word) (i : Instr) (rest : List HostAction),
    s.pending = .ctlWrite 0x00 32 w :: rest → s.ready → decode w = .ok i → sourcesHeld i s = true →
    ∃ t, step s = .next t ∧ t.status.busy = true ∧ t.running = some i ∧ t.seq = startSequencer i s.seq ∧
      t.pending = rest ∧ sameLanes s t ∧ sameKeys s t ∧ sameMemories s t ∧
      sameControl { s with pending := rest } t

/-- R231: a word that does not decode raises `ILLEGAL_CMD`, written either way: `STATUS` reads 0x12, `FAULTCMD` is the whole
word, and nothing else changes.
(That the host has two forms of write is log 2, DEDUCED.) -/
def Obligations.IllegalWordRaisesIllegalCmd : Prop :=
  ∀ (s : State) (w : Word) (e : IllegalWord) (a : HostAction) (rest : List HostAction),
    s.pending = a :: rest → (a = .call w ∨ a = .ctlWrite 0x00 32 w) → s.ready → decode w = .error e →
    ∃ t, step s = .next t ∧ faultedFrom s t .illegalCmd w ∧ statusWord t.status = 0x00000012#32 ∧ t.pending = rest

/-- R232, R91: a command with a source register of R23 that holds no value raises `NO_VALUE`, as a command and in either form
of write to `CMD` (the posted form is log 2, DEDUCED): `STATUS` reads 0x22, `FAULTCMD` is the command's word, and nothing
else changes; no lane, no key and no byte of memory. The registers that the machine checks are those of R23. -/
def Obligations.EmptySourceRaisesNoValue : Prop :=
  (∀ (s : State) (i : Instr), sourcesHeld i s = false ↔ sourceEmpty s i) ∧
  (∀ (s : State) (i : Instr), i.wellFormed = true → sourceEmpty s i →
    ∃ t, exec i s = .next t ∧ faultedFrom s t .noValue (encode i) ∧ statusWord t.status = 0x00000022#32 ∧
      t.pending = s.pending) ∧
  (∀ (s : State) (w : Word) (i : Instr) (a : HostAction) (rest : List HostAction),
    s.pending = a :: rest → (a = .call w ∨ a = .ctlWrite 0x00 32 w) → s.ready → decode w = .ok i → sourceEmpty s i →
    ∃ t, step s = .next t ∧ faultedFrom s t .noValue w ∧ statusWord t.status = 0x00000022#32 ∧ t.pending = rest)

/-- The model's own deduction (log 14, DEDUCED from R83, R85, R233): `exec` of a command term with an operand outside its
range, which no word decodes to, raises `ILLEGAL_CMD` before any other check, whatever the registers hold. -/
def Obligations.OperandOutOfRangeRaisesIllegalCmd : Prop :=
  ∀ (s : State) (i : Instr), i.wellFormed = false →
    ∃ t, exec i s = .next t ∧ faultedFrom s t .illegalCmd (encode i) ∧ t.pending = s.pending

/-- R234: whatever word raises a fault, the state after it is the state before it with `STATUS` and `FAULTCMD` written: `FAULT`
1, `BUSY` 0, `CAUSE` the cause that R233 puts first, `FAULTCMD` the word.
(That the host has two forms of write is log 2, DEDUCED.) -/
def Obligations.FaultWritesOnlyStatusAndFaultcmd : Prop :=
  ∀ (s t : State) (w : Word) (a : HostAction) (rest : List HostAction),
    s.pending = a :: rest → (a = .call w ∨ a = .ctlWrite 0x00 32 w) → s.ready →
    step s = .next t → t.status.fault = true →
    ∃ c, (c = .illegalCmd ∧ (∃ e, decode w = .error e) ∨ c = .noValue ∧ (∃ i, decode w = .ok i)) ∧
      t = { s with pending := rest, status := ⟨false, true, c⟩, faultCmd := w }

/-- R235: a faulted engine discards every command word, legal or not, in either form of write.
(That the host has two forms of write is log 2, DEDUCED.) -/
def Obligations.HaltedEngineDiscardsCommands : Prop :=
  ∀ (s : State) (w : Word) (a : HostAction) (rest : List HostAction),
    s.pending = a :: rest → (a = .call w ∨ a = .ctlWrite 0x00 32 w) →
    s.status.fault = true → s.status.busy = false →
    step s = .next { s with pending := rest }

/-- R235, R236: nothing but reset changes `STATUS`, `FAULTCMD`, a lane or a round key of a faulted engine. -/
def Obligations.OnlyResetLeavesTheHalt : Prop :=
  ∀ s t : State, s.Inv → s.status.fault = true → s.pending.head? ≠ some .reset → step s = .next t →
    t.status = s.status ∧ t.faultCmd = s.faultCmd ∧ sameLanes s t ∧ sameKeys s t ∧ t.seq = s.seq

/-! ### Register transfer (R210 to R214) -/

/-- R210: `LDX d, s` puts State block `s` into lane `d` and changes no other register and no memory. -/
def Obligations.LoadLaneReadsTheStateBlock : Prop :=
  ∀ (s : State) (d b : BitVec 4), isLane d = true → isStateBlock b = true →
    ∃ t, exec (.ldx d b) s = .next t ∧
      t.lane d.toNat = some (s.readBlock .state b.toNat) ∧ sameLanesExcept s t d.toNat 1 ∧
      sameKeys s t ∧ sameMemories s t ∧ completedFrom s t

/-- R211: `STX d, s` puts lane `d` into State block `s`: its sixteen bytes, and no other byte, at `16*s`. -/
def Obligations.StoreLaneWritesTheStateBlock : Prop :=
  ∀ (s : State) (d b : BitVec 4) (v : Block), isLane d = true → isStateBlock b = true → s.lane d.toNat = some v →
    ∃ t, exec (.stx d b) s = .next t ∧
      t.readBlock .state b.toNat = v ∧ sameMemoriesExcept s t .state (blockAddress b.toNat) 16 ∧
      sameLanes s t ∧ sameKeys s t ∧ completedFrom s t

/-- R212: `LDK k, s` puts State block `s` into round key `k` and changes no other register and no memory. -/
def Obligations.LoadKeyReadsTheStateBlock : Prop :=
  ∀ (s : State) (k b : BitVec 4), isKey k = true → isStateBlock b = true →
    ∃ t, exec (.ldk k b) s = .next t ∧
      t.key k.toNat = some (s.readBlock .state b.toNat) ∧ sameKeysExcept s t k.toNat 1 ∧
      sameLanes s t ∧ sameMemories s t ∧ completedFrom s t

/-- R213: `STK k, s` puts round key `k` into State block `s`: its sixteen bytes, and no other byte, at `16*s`. -/
def Obligations.StoreKeyWritesTheStateBlock : Prop :=
  ∀ (s : State) (k b : BitVec 4) (v : Block), isKey k = true → isStateBlock b = true → s.key k.toNat = some v →
    ∃ t, exec (.stk k b) s = .next t ∧
      t.readBlock .state b.toNat = v ∧ sameMemoriesExcept s t .state (blockAddress b.toNat) 16 ∧
      sameLanes s t ∧ sameKeys s t ∧ completedFrom s t

/-! ### The AES commands (R100 to R116) -/

/-- R114: `AESRND d, k` applies one round with `K[k]` to lane `d` alone; its first step takes the S-box of every byte
(R104). -/
def Obligations.SingleRoundUpdatesOneLane : Prop :=
  ∀ (s : State) (d k : BitVec 4) (v rk : Block), isLane d = true → isKey k = true →
    s.lane d.toNat = some v → s.key k.toNat = some rk →
    ∃ t u, exec (.aesrnd d k) s = .next t ∧
      (∀ i, i < 16 → byteOf u i = sbox (byteOf v i)) ∧ u = subBytes v ∧
      t.lane d.toNat = some (mixColumns (shiftRows u) ^^^ rk) ∧ sameLanesExcept s t d.toNat 1 ∧
      sameKeys s t ∧ sameMemories s t ∧ completedFrom s t

/-- R115, R112: `KASSIST d, imm` replaces lane `d` by the assist of it, word by word, and byte by byte (R110, R111, C6: the
constant goes into the byte of the word at the lowest address). -/
def Obligations.KeyAssistUpdatesOneLane : Prop :=
  ∀ (s : State) (d : BitVec 4) (rcon : Byte) (v : Block), isLane d = true → s.lane d.toNat = some v →
    ∃ t o, exec (.kassist d rcon) s = .next t ∧ t.lane d.toNat = some o ∧
      wordOf o 0 = subWord (wordOf v 1) ∧ wordOf o 1 = rotWord (subWord (wordOf v 1)) ^^^ rconWord rcon ∧
      wordOf o 2 = subWord (wordOf v 3) ∧ wordOf o 3 = rotWord (subWord (wordOf v 3)) ^^^ rconWord rcon ∧
      (∀ i, i < 4 → byteOf o i = sbox (byteOf v (4 + i))) ∧
      byteOf o 4 = sbox (byteOf v 5) ^^^ rcon ∧ byteOf o 5 = sbox (byteOf v 6) ∧
      byteOf o 6 = sbox (byteOf v 7) ∧ byteOf o 7 = sbox (byteOf v 4) ∧
      (∀ i, i < 4 → byteOf o (8 + i) = sbox (byteOf v (12 + i))) ∧
      byteOf o 12 = sbox (byteOf v 13) ^^^ rcon ∧ byteOf o 13 = sbox (byteOf v 14) ∧
      byteOf o 14 = sbox (byteOf v 15) ∧ byteOf o 15 = sbox (byteOf v 12) ∧
      sameLanesExcept s t d.toNat 1 ∧ sameKeys s t ∧ sameMemories s t ∧ completedFrom s t

/-- R103: the table of the S-box is the inverse in the field of R102 followed by the affine map, 0 taken for the inverse of
0; every other byte has an inverse, the S-box is a bijection of bytes, and the spot values are as listed. R104: `SubBytes`
takes the S-box of each of the sixteen bytes; the example. -/
def Obligations.SboxTableMatchesItsDefinition : Prop :=
  sbox 0#8 = sboxAffine 0#8 ∧
  (∀ a t : Byte, gmul a t = 1#8 → sbox a = sboxAffine t) ∧
  (∀ a : Byte, a ≠ 0#8 → ∃ t, gmul a t = 1#8) ∧
  Function.Bijective sbox ∧
  sbox 0x00#8 = 0x63#8 ∧ sbox 0x01#8 = 0x7C#8 ∧ sbox 0x53#8 = 0xED#8 ∧ sbox 0xFF#8 = 0x16#8 ∧
  (∀ (b : Block) (i : Nat), i < 16 → byteOf (subBytes b) i = sbox (byteOf b i)) ∧
  subBytes (memoryOrder 0x000102030405060708090a0b0c0d0e0f#128) = memoryOrder 0x637c777bf26b6fc53001672bfed7ab76#128

/-- R105: byte `r + 4c` of `ShiftRows` is byte `r + 4*((c + r) mod 4)`; the index list; the example; it commutes with
`SubBytes`. -/
def Obligations.ShiftRowsRotatesEachRow : Prop :=
  (∀ (b : Block) (r c : Nat), r < 4 → c < 4 →
    byteOf (shiftRows b) (r + 4 * c) = byteOf b (r + 4 * ((c + r) % 4))) ∧
  (∀ b : Block, (List.range 16).map (byteOf (shiftRows b)) =
    [0, 5, 10, 15, 4, 9, 14, 3, 8, 13, 2, 7, 12, 1, 6, 11].map (byteOf b)) ∧
  shiftRows (memoryOrder 0x000102030405060708090a0b0c0d0e0f#128) = memoryOrder 0x00050a0f04090e03080d02070c01060b#128 ∧
  (∀ b : Block, shiftRows (subBytes b) = subBytes (shiftRows b))

/-- R106: each column of `MixColumns` is the product of the column and the fixed matrix over GF(2^8); a column of four equal
bytes is unchanged; the examples. -/
def Obligations.MixColumnsMultipliesEachColumn : Prop :=
  (∀ (b : Block) (c : Nat), c < 4 →
    let a0 := byteOf b (4 * c)
    let a1 := byteOf b (4 * c + 1)
    let a2 := byteOf b (4 * c + 2)
    let a3 := byteOf b (4 * c + 3)
    byteOf (mixColumns b) (4 * c) = gmul 2#8 a0 ^^^ gmul 3#8 a1 ^^^ a2 ^^^ a3 ∧
    byteOf (mixColumns b) (4 * c + 1) = a0 ^^^ gmul 2#8 a1 ^^^ gmul 3#8 a2 ^^^ a3 ∧
    byteOf (mixColumns b) (4 * c + 2) = a0 ^^^ a1 ^^^ gmul 2#8 a2 ^^^ gmul 3#8 a3 ∧
    byteOf (mixColumns b) (4 * c + 3) = gmul 3#8 a0 ^^^ a1 ^^^ a2 ^^^ gmul 2#8 a3) ∧
  (∀ (b : Block) (c : Nat) (v : Byte), c < 4 → (∀ r, r < 4 → byteOf b (4 * c + r) = v) →
    ∀ r, r < 4 → byteOf (mixColumns b) (4 * c + r) = v) ∧
  mixColumns (memoryOrder 0xdb135345f20a225c01010101c6c6c6c6#128) = memoryOrder 0x8e4da1bc9fdc589d01010101c6c6c6c6#128 ∧
  mixColumns (memoryOrder 0x000102030405060708090a0b0c0d0e0f#128) = memoryOrder 0x02070005060304010a0f080d0e0b0c09#128

/-- Law (b) of R116: for a fixed round key the round is a bijection of blocks. -/
def Obligations.EncryptRoundIsABijection : Prop :=
  ∀ rk : Block, Function.Bijective fun b => encryptRound b rk

/-! ### The key schedule (R130 to R139) -/

/-- R137: `KEXP` expands `K[0]`, `K[1]` into `K[2..9]`, whatever those held; the result is the reference expansion of R135. -/
def Obligations.KeyExpandWritesTheReferenceKeys : Prop :=
  ∀ (s : State) (lo hi : Block), s.key 0 = some lo → s.key 1 = some hi →
    ∃ t, exec .kexp s = .next t ∧
      (∀ j, 2 ≤ j → j ≤ 9 → t.key j = some (fipsKey lo hi j)) ∧ sameKeysExcept s t 2 8 ∧
      sameLanes s t ∧ sameMemories s t ∧ completedFrom s t

/-- R135: the ten round keys of `key_expand` are those of the AES-256 recurrence, for every key. The
recurrence is written out on bytes, apart from the functions that `key_expand` uses. -/
def Obligations.KeyExpansionIsTheAesRecurrence : Prop :=
  ∀ (lo hi : Block) (r : Nat), r < 10 → (keyExpand lo hi)[r]? = some (fipsKey lo hi r)

/-- R132: the fold is the running xor of the words; a shift, not a rotation; and its three examples. -/
def Obligations.FoldIsTheRunningXor : Prop :=
  (∀ b : Block, wordOf (shlw b) 0 = 0#32 ∧ wordOf (shlw b) 1 = wordOf b 0 ∧ wordOf (shlw b) 2 = wordOf b 1 ∧
    wordOf (shlw b) 3 = wordOf b 2) ∧
  (∀ b : Block, slXor b = b ^^^ shlw b ^^^ shlw (shlw b) ^^^ shlw (shlw (shlw b))) ∧
  (∀ b : Block, wordOf (slXor b) 0 = wordOf b 0 ∧ wordOf (slXor b) 1 = wordOf b 0 ^^^ wordOf b 1 ∧
    wordOf (slXor b) 2 = wordOf b 0 ^^^ wordOf b 1 ^^^ wordOf b 2 ∧
    wordOf (slXor b) 3 = wordOf b 0 ^^^ wordOf b 1 ^^^ wordOf b 2 ^^^ wordOf b 3) ∧
  slXor (memoryOrder 0x000102030405060708090a0b0c0d0e0f#128) = memoryOrder 0x00010203040404040c0d0e0f00000000#128 ∧
  slXor (memoryOrder 0xffffffffffffffffffffffffffffffff#128) = memoryOrder 0xffffffff00000000ffffffff00000000#128 ∧
  slXor (memoryOrder 0#128) = memoryOrder 0#128

/-- Laws (c) and (d) of R139: the fold is linear and invertible, and a step of the schedule is a bijection of pairs. -/
def Obligations.KeyScheduleStepIsInvertible : Prop :=
  (∀ b c : Block, slXor (b ^^^ c) = slXor b ^^^ slXor c) ∧ Function.Bijective slXor ∧
  (∀ (hi : Block) (rcon : Byte), Function.Bijective fun lo => nextLo lo hi rcon) ∧
  (∀ rcon : Byte, Function.Bijective fun p : Block × Block => genkeyStep p.1 p.2 rcon)

/-- R89, R138: the pseudo-command `KEYGEN s` leaves in `K[0..9]` the round keys of the seed in State blocks `s` and `s + 1`. -/
def Obligations.KeygenExpandsTheStateSeed : Prop :=
  ∀ (s : State) (b : BitVec 4), b ≤ 10#4 →
    ∃ t, runAll (keygen b) s = .next t ∧
      (∀ j, j < 10 → t.key j = (keyExpand (s.readBlock .state b.toNat) (s.readBlock .state (b.toNat + 1)))[j]?) ∧
      sameLanes s t ∧ sameMemories s t ∧ completedFrom s t

/-! ### The round network (R150 to R157) -/

/-- R153: `ROUND4 d, k` applies one round with `K[k]` to the four lanes from `d` on; the other group is untouched. -/
def Obligations.FourLaneRoundUpdatesItsGroup : Prop :=
  ∀ (s : State) (d k : BitVec 4) (rk : Block) (v : Nat → Block), isGroupBase d = true → isKey k = true →
    (∀ j, j < 4 → s.lane (d.toNat + j) = some (v j)) → s.key k.toNat = some rk →
    ∃ t, exec (.round4 d k) s = .next t ∧
      (∀ j, j < 4 → t.lane (d.toNat + j) = some (encryptRound (v j) rk)) ∧ sameLanesExcept s t d.toNat 4 ∧
      sameKeys s t ∧ sameMemories s t ∧ completedFrom s t

/-- R154: `ROUND8 k` applies one round with `K[k]` to all eight lanes. -/
def Obligations.EightLaneRoundUpdatesEveryLane : Prop :=
  ∀ (s : State) (k : BitVec 4) (rk : Block) (v : Nat → Block), isKey k = true →
    (∀ j, j < 8 → s.lane j = some (v j)) → s.key k.toNat = some rk →
    ∃ t, exec (.round8 k) s = .next t ∧ (∀ j, j < 8 → t.lane j = some (encryptRound (v j) rk)) ∧
      sameKeys s t ∧ sameMemories s t ∧ completedFrom s t

/-- R155: `NET4 d` applies ten rounds, `K[0]` first and `K[9]` last, to the four lanes from `d` on. -/
def Obligations.FourLaneNetworkUpdatesItsGroup : Prop :=
  ∀ (s : State) (d : BitVec 4) (ks : List Block) (v : Nat → Block), isGroupBase d = true →
    (∀ j, j < 4 → s.lane (d.toNat + j) = some (v j)) → ks.length = 10 → (∀ r, r < 10 → s.key r = ks[r]?) →
    ∃ t, exec (.net4 d) s = .next t ∧
      (∀ j, j < 4 → t.lane (d.toNat + j) = some (ks.foldl encryptRound (v j))) ∧ sameLanesExcept s t d.toNat 4 ∧
      sameKeys s t ∧ sameMemories s t ∧ completedFrom s t

/-- R156: `NET8` applies the same ten rounds to all eight lanes. -/
def Obligations.EightLaneNetworkUpdatesEveryLane : Prop :=
  ∀ (s : State) (ks : List Block) (v : Nat → Block),
    (∀ j, j < 8 → s.lane j = some (v j)) → ks.length = 10 → (∀ r, r < 10 → s.key r = ks[r]?) →
    ∃ t, exec .net8 s = .next t ∧ (∀ j, j < 8 → t.lane j = some (ks.foldl encryptRound (v j))) ∧
      sameKeys s t ∧ sameMemories s t ∧ completedFrom s t

/-- The pure laws of R157: a lane set goes through the network lane by lane, in any batching. -/
def Obligations.NetworkWorksOnEachLaneAlone : Prop :=
  (∀ xs ys ks : List Block, net (xs ++ ys) ks = net xs ks ++ net ys ks) ∧
  (∀ (xs ks : List Block) (j : Nat), (net xs ks)[j]? = (xs[j]?).map fun x => ks.foldl encryptRound x) ∧
  (∀ (xs ys : List Block) (rk : Block), roundN (xs ++ ys) rk = roundN xs rk ++ roundN ys rk)

/-- R157 on the engine: `NET8` is `NET4 x0` and `NET4 x4`, in either order; `ROUND8 k` is `ROUND4 x0, k` then
`ROUND4 x4, k`. The whole state agrees. -/
def Obligations.WideCommandsAreTwoNarrowOnes : Prop :=
  (∀ s : State, sourcesHeld .net8 s = true →
    exec .net8 s = runAll [.net4 0#4, .net4 4#4] s ∧ exec .net8 s = runAll [.net4 4#4, .net4 0#4] s) ∧
  (∀ (s : State) (k : BitVec 4), isKey k = true → sourcesHeld (.round8 k) s = true →
    exec (.round8 k) s = runAll [.round4 0#4 k, .round4 4#4 k] s)

/-- R157 on the engine: `NET4 d` is the ten `ROUND4 d, k0` to `k9`; `ROUND4 d, k` is the four `AESRND` of its group, in any
order. The whole state agrees. -/
def Obligations.NarrowCommandsAreSingleRounds : Prop :=
  (∀ (s : State) (d : BitVec 4), isGroupBase d = true → sourcesHeld (.net4 d) s = true →
    exec (.net4 d) s = runAll [.round4 d 0#4, .round4 d 1#4, .round4 d 2#4, .round4 d 3#4, .round4 d 4#4,
      .round4 d 5#4, .round4 d 6#4, .round4 d 7#4, .round4 d 8#4, .round4 d 9#4] s) ∧
  (∀ (s : State) (d k : BitVec 4) (l : List (BitVec 4)), isGroupBase d = true → isKey k = true →
    sourcesHeld (.round4 d k) s = true → l.Perm [d, d + 1#4, d + 2#4, d + 3#4] →
    exec (.round4 d k) s = runAll (l.map fun x => .aesrnd x k) s)

/-! ### EXPLODE and IMPLODE (R170 to R199) -/

/-- R172: from any state `EXPLODE` fills `PAD` with `explode(STATE, N)` of R171, leaves `STATE` as it was, destroys every
register and leaves the sequencer idle. -/
def Obligations.ExplodeFillsTheScratchpad : Prop :=
  ∀ s : State, ∃ t, exec .explode s = .next t ∧
    (∀ q, q < s.geometry.blocks →
      some (t.readBlock .pad q) = (explodeFunction (stateBlocks s) s.geometry.windows)[q]?) ∧
    sameMemoriesExcept s t .pad 0 s.geometry.mem ∧ registersDestroyed t ∧ topLevelCompletedFrom s t

/-- R176, R177: the closed form of `explode`, and its single-pass form. -/
def Obligations.ExplodeClosedForm : Prop :=
  (∀ (S : Nat → Block) (n q : Nat), q < 8 * n → (explodeFunction S n)[q]? = some (explodedBlock S q)) ∧
  (∀ (S : Nat → Block) (n : Nat), (explodeFunction S n).length = 8 * n ∧ explodeOnePass S n = explodeFunction S n) ∧
  (∀ (S : Nat → Block) (q : Nat), explodedBlock S (q + 8) = netLane (keyExpand (S 0) (S 1)) (explodedBlock S q))

/-- R192, R196: from any state `IMPLODE` folds `PAD` into State blocks 4 to 11 by the eight chains of R196, leaves `PAD` and
State blocks 0 to 3 as they were, destroys every register and leaves the sequencer idle. -/
def Obligations.ImplodeFoldsTheScratchpad : Prop :=
  ∀ s : State, ∃ t, exec .implode s = .next t ∧
    (∀ j, j < 8 → t.readBlock .state (4 + j) = foldedBlock (padBlocks s) (stateBlocks s) s.geometry.windows j) ∧
    sameMemoriesExcept s t .state (blockAddress 4) 128 ∧ registersDestroyed t ∧ topLevelCompletedFrom s t

/-- R26, R175, R197: what `EXPLODE` leaves in `PAD` depends on `State[0]`, `State[1]`, `State[4..11]` and `N` alone; what
`IMPLODE` leaves in `State[4..11]` on `State[2..11]`, `PAD` and `N` alone; on no register, `CFG` bit or earlier command. -/
def Obligations.TopLevelCommandsArePure : Prop :=
  (∀ s s' t t' : State, s.geometry = s'.geometry →
    (∀ b, b = 0 ∨ b = 1 ∨ 4 ≤ b ∧ b ≤ 11 → s.readBlock .state b = s'.readBlock .state b) →
    exec .explode s = .next t → exec .explode s' = .next t' →
    ∀ q, q < s.geometry.blocks → t.readBlock .pad q = t'.readBlock .pad q) ∧
  (∀ s s' t t' : State, s.geometry = s'.geometry →
    (∀ b, 2 ≤ b ∧ b ≤ 11 → s.readBlock .state b = s'.readBlock .state b) →
    (∀ q, q < s.geometry.blocks → s.readBlock .pad q = s'.readBlock .pad q) →
    exec .implode s = .next t → exec .implode s' = .next t' →
    ∀ b, 4 ≤ b ∧ b ≤ 11 → t.readBlock .state b = t'.readBlock .state b)

/-- R173: a posted `EXPLODE` is accepted, makes `2*(N/8) + 5` micro-steps with `BUSY` 1 before each, and ends in exactly the
state in which the command of R172 ends.
(That the host has two forms of write is log 2, DEDUCED.) -/
def Obligations.ExpanderRowsRunToTheCommand : Prop :=
  ∀ s : State, s.pending = [] → s.ready →
    let posted : State := { s with pending := [.ctlWrite 0x00 32 0x00000040#32] }
    Host.Core.run Sys2Proof.core (1 + (2 * s.geometry.windows + 5)) posted = exec .explode s ∧
    ∀ m, m < 2 * s.geometry.windows + 5 →
      ∃ t : State, Host.Core.run Sys2Proof.core (1 + m) posted = .next t ∧ t.status.busy = true

/-- R193: a posted `IMPLODE` is accepted, makes `2*(N/8) + 7` micro-steps with `BUSY` 1 before each, and ends in exactly the
state in which the command of R192 ends.
(That the host has two forms of write is log 2, DEDUCED.) -/
def Obligations.FolderRowsRunToTheCommand : Prop :=
  ∀ s : State, s.pending = [] → s.ready →
    let posted : State := { s with pending := [.ctlWrite 0x00 32 0x00000041#32] }
    Host.Core.run Sys2Proof.core (1 + (2 * s.geometry.windows + 7)) posted = exec .implode s ∧
    ∀ m, m < 2 * s.geometry.windows + 7 →
      ∃ t : State, Host.Core.run Sys2Proof.core (1 + m) posted = .next t ∧ t.status.busy = true

/-! ### The control port and the host (R30 to R36, R260 to R273) -/

/-- R268: whatever the command, a host that posts it and lets the engine run ends where a host that makes the blocking call
ends. (The number of micro-steps of a component command, one, is the model's choice: log 12.)
(That the host has two forms of write is log 2, DEDUCED.) -/
def Obligations.PostedCommandEndsAsTheCall : Prop :=
  ∀ (s : State) (w : Word) (i : Instr), s.pending = [] → s.ready → s.seq = restingSequencer →
    decode w = .ok i → sourcesHeld i s = true →
    ∃ n, n ≤ 2 * s.geometry.windows + 8 ∧
      Host.Core.run Sys2Proof.core n { s with pending := [.ctlWrite 0x00 32 w] } =
        Host.Core.run Sys2Proof.core 1 { s with pending := [.call w] }

/-- R273: from every legal state a busy engine that is left alone is idle within `2*(N/8) + 7` micro-steps. (That a component
command takes one micro-step is the model's choice: log 12.) -/
def Obligations.EveryRunningCommandTerminates : Prop :=
  ∀ s : State, s.Inv → s.pending = [] → s.status.busy = true →
    ∃ n, n ≤ 2 * s.geometry.windows + 7 ∧
      ∃ t : State, Host.Core.run Sys2Proof.core n s = .next t ∧ t.status.busy = false ∧ t.seq = restingSequencer

/-- R268: a write to `CMD` or `CFG` while `BUSY = 1` stays at the port, and the running command goes on exactly as it would
without it.
(That the host has two forms of write is log 2, DEDUCED.) -/
def Obligations.BusyWritesAreHeldOff : Prop :=
  ∀ (s : State) (a : HostAction) (rest : List HostAction) (w : Word),
    s.status.busy = true → s.pending = a :: rest →
    (a = .call w ∨ a = .ctlWrite 0x00 32 w ∨ a = .ctlWrite 0x08 32 w) →
    ∃ t, step s = .next t ∧ t.pending = a :: rest ∧ step { s with pending := [] } = .next { t with pending := [] }

/-- R30, R32 to R36: what each read of the control port returns, busy or not; nothing else changes. -/
def Obligations.ControlReadsReturnTheRegisters : Prop :=
  ∀ (s : State) (offset width : Nat) (rest : List HostAction), s.pending = .ctlRead offset width :: rest →
    ∃ v : Word, step s = .next { s with pending := rest, replies := .ctl v :: s.replies } ∧
      (width ≠ 32 ∨ offset ∉ [0x04, 0x08, 0x0C, 0x10] → v = 0#32) ∧
      (width = 32 → offset = 0x04 →
        v.getLsbD 0 = s.status.busy ∧ v.getLsbD 1 = s.status.fault ∧ v.extractLsb' 2 2 = 0#2 ∧
        v.extractLsb' 4 4 = causeCode s.status.cause ∧ v.extractLsb' 8 24 = 0#24) ∧
      (width = 32 → offset = 0x08 → v.getLsbD 0 = s.prefetchEn ∧ v.extractLsb' 1 31 = 0#31) ∧
      (width = 32 → offset = 0x0C → v.toNat = s.geometry.blocks) ∧
      (width = 32 → offset = 0x10 → v = s.faultCmd)

/-- R30, R34, R36: a write to `CFG` of an engine that is not busy, faulted or not, keeps bit 0 and drops the rest; a write to a
read-only register, to an offset with no register, or of another width is ignored, busy or not. -/
def Obligations.ControlWritesReachOnlyCmdAndCfg : Prop :=
  (∀ (s : State) (v : Word) (rest : List HostAction),
    s.pending = .ctlWrite 0x08 32 v :: rest → s.status.busy = false →
    step s = .next { s with pending := rest, prefetchEn := v.getLsbD 0 } ∧ cfgWord (v.getLsbD 0) = v &&& 1#32) ∧
  (∀ (s : State) (offset width : Nat) (v : Word) (rest : List HostAction),
    s.pending = .ctlWrite offset width v :: rest → (width ≠ 32 ∨ offset ≠ 0x00 ∧ offset ≠ 0x08) →
    step s = .next { s with pending := rest })

/-- R32: in every legal state `STATUS` reads one of the four values the spec lists. -/
def Obligations.StatusReadsALegalValue : Prop :=
  ∀ s : State, s.Inv → statusWord s.status ∈ [0x00000000#32, 0x00000001#32, 0x00000012#32, 0x00000022#32]

/-- R34, R70, R178, R197: `PREFETCH_EN` has no effect: every command and every micro-step does the same for both values. -/
def Obligations.PrefetchBitHasNoEffect : Prop :=
  (∀ (i : Instr) (s t : State) (p : Bool), exec i s = .next t →
    exec i { s with prefetchEn := p } = .next { t with prefetchEn := p }) ∧
  (∀ (s t : State) (p : Bool), engineStep s = .next t →
    engineStep { s with prefetchEn := p } = .next { t with prefetchEn := p })

/-- R267, R51, R54: while the engine is not busy the host writes the bytes it names, wherever they lie in the space, and
changes nothing else. -/
def Obligations.HostWritesExactlyItsBytes : Prop :=
  ∀ (s : State) (sp : Space) (a : Nat) (bytes : List Byte) (rest : List HostAction),
    s.pending = .memWrite sp a bytes :: rest → s.status.busy = false → a + bytes.length ≤ s.spaceSize sp →
    ∃ t, step s = .next t ∧ (∀ j, j < bytes.length → some (t.readByte sp (a + j)) = bytes[j]?) ∧
      sameMemoriesExcept s t sp a bytes.length ∧ sameLanes s t ∧ sameKeys s t ∧ t.seq = s.seq ∧
      t.status = s.status ∧ t.running = s.running ∧ sameControl { s with pending := rest } t

/-- R267, R54: while the engine is not busy the host reads the bytes as they stand, and the read changes nothing. -/
def Obligations.HostReadsTheBytes : Prop :=
  ∀ (s : State) (sp : Space) (a n : Nat) (rest : List HostAction),
    s.pending = .memRead sp a n :: rest → s.status.busy = false → a + n ≤ s.spaceSize sp →
    ∃ bytes : List Byte, bytes.length = n ∧ (∀ j, j < n → bytes[j]? = some (s.readByte sp (a + j))) ∧
      step s = .next { s with pending := rest, replies := .mem bytes :: s.replies }

/-- U4, R266 (log 10) and the model's own limit (log 11): the host's accesses to `STATE` and `PAD` that the model does not
make. -/
def Obligations.HostMemoryAccessStops : Prop :=
  ∀ (s : State) (sp : Space) (a n : Nat) (bytes : List Byte) (rest : List HostAction) (h : HostAction),
    s.pending = h :: rest → (h = .memRead sp a n ∨ h = .memWrite sp a bytes ∧ bytes.length = n) →
    (s.status.busy = true → step s = .refused .hostMemoryWhileBusy) ∧
    (s.status.busy = false → s.spaceSize sp < a + n → step s = .fault (.hostOutOfRange sp))

/-- R24: of an engine that is not busy, no host action but a command and reset reaches the registers or the sequencer. -/
def Obligations.HostCannotReachTheRegisters : Prop :=
  ∀ (s t : State) (a : HostAction) (rest : List HostAction), s.pending = a :: rest → s.status.busy = false →
    (∀ w, a ≠ .call w) → (∀ w, a ≠ .ctlWrite 0x00 32 w) → a ≠ .reset → step s = .next t →
    sameLanes s t ∧ sameKeys s t ∧ t.seq = s.seq ∧ t.running = s.running ∧ t.status = s.status

/-- R245: an idle engine with nothing to do keeps all its state. -/
def Obligations.IdleEngineKeepsItsState : Prop :=
  ∀ s : State, s.pending = [] → s.status.busy = false → step s = .next s

/-- R260 and the table of R42: reset of an engine with no command in progress, and power-up in every configuration. The
bytes of memory after power-up are the free values of log 4, and that `State.reset` is the build of the reference `MEM` is the
model's choice of log 3. -/
def Obligations.ResetGivesTheResetValues : Prop :=
  (∀ (s : State) (rest : List HostAction), s.pending = .reset :: rest → s.running = none →
    ∃ t, step s = .next t ∧ engineRegistersReset t ∧ t.ready ∧ sameMemories s t ∧ t.geometry = s.geometry ∧
      t.pending = rest) ∧
  (∀ g : Geometry, engineRegistersReset (State.powerUp g) ∧ (State.powerUp g).ready ∧
    (State.powerUp g).geometry = g ∧ ∀ sp a, (State.powerUp g).readByte sp a = Config.powerUpByte sp a) ∧
  State.reset = State.powerUp Config.referenceGeometry ∧ State.reset.geometry.mem = 2097152

/-- R261: reset during a command resets the engine, leaves unspecified exactly the blocks the command writes (all of `PAD` for
`EXPLODE`, `State[4..11]` for `IMPLODE`, the one block of `STX` or `STK`, none for any other command), and leaves all other
memory as it was. (That the unspecified bytes are a free value of the address and of the number of aborts so far is the
model's form of U7: log 8.) -/
def Obligations.AbortLeavesWrittenBlocksUnspecified : Prop :=
  ∀ (s : State) (i : Instr) (rest : List HostAction), s.pending = .reset :: rest → s.running = some i →
    ∃ t, step s = .next t ∧ engineRegistersReset t ∧ t.ready ∧ t.geometry = s.geometry ∧ t.pending = rest ∧
      ∀ sp a,
        (abortedBlock s.geometry sp (a / 16) i → t.readByte sp a = Config.abortedByte s.draws sp a) ∧
        (¬abortedBlock s.geometry sp (a / 16) i → t.readByte sp a = s.readByte sp a)

/-! ### Configurations and the invariant -/

/-- R10, R11, R35: the configurations of the model are exactly the legal values of `MEM`; `N` is a positive multiple of 8
that a 32-bit register holds; `IDXW` is the least width whose registers hold `N`. -/
def Obligations.ConfigurationsAreTheLegalOnes : Prop :=
  (∀ (mem : Nat) (g : Geometry), Geometry.ofMem mem = some g ↔
    mem % 128 = 0 ∧ 128 ≤ mem ∧ mem / 16 < 2 ^ 32 ∧ g.mem = mem) ∧
  (∀ g : Geometry, g.blocks = g.mem / 16 ∧ g.blocks % 8 = 0 ∧ 8 ≤ g.blocks ∧ g.blocks < 2 ^ 32 ∧
    g.blocks < 2 ^ g.idxWidth ∧ ∀ W, g.blocks < 2 ^ W → g.idxWidth ≤ W)

/-- R35: no step changes the build parameter. -/
def Obligations.BuildParameterNeverChanges : Prop :=
  ∀ s t : State, step s = .next t → t.geometry = s.geometry

/-- The machine's invariant (the memories in canonical form and inside their spaces, R37, R58; the status bits and
`FAULTCMD` of R32, R33; the sequencer of R27, R28, R173, R193 in step with the command in progress) is kept by every step. -/
def Obligations.EveryStepKeepsTheInvariant : Prop :=
  ∀ s t : State, s.Inv → step s = .next t → t.Inv

/-- The invariant holds at reset, in every configuration. -/
def Obligations.ResetMeetsTheInvariant : Prop :=
  State.reset.Inv ∧ ∀ g : Geometry, (State.powerUp g).Inv

/-- R28: in every legal state `IDX` is a multiple of 8, never exceeds `N` and fits its `IDXW` bits, and outside a running
`EXPLODE` or `IMPLODE` the sequencer is idle (R27). -/
def Obligations.SequencerIndexStaysInRange : Prop :=
  ∀ s : State, s.Inv →
    s.seq.idx % 8 = 0 ∧ s.seq.idx ≤ s.geometry.blocks ∧ s.seq.idx < 2 ^ s.geometry.idxWidth ∧
    (s.running ≠ some .explode ∧ s.running ≠ some .implode → s.seq = restingSequencer)
end

