-- ==== Sys2Proof/Laws/Bytes.lean ====
section
/-! SUPPORT. Bytes, words and blocks: each is determined by its parts, and `xor` works part by part (R16 to R18). -/

namespace Sys2Proof.Machine

/-! ### Words of a block -/

@[simp] theorem wordOf_blockOfWords_zero (w0 w1 w2 w3 : Word) : wordOf (blockOfWords w0 w1 w2 w3) 0 = w0 := by
  ext i hi
  simp only [wordOf, blockOfWords, BitVec.getElem_extractLsb', BitVec.getLsbD_append]
  simp [hi]

@[simp] theorem wordOf_blockOfWords_one (w0 w1 w2 w3 : Word) : wordOf (blockOfWords w0 w1 w2 w3) 1 = w1 := by
  ext i hi
  simp only [wordOf, blockOfWords, BitVec.getElem_extractLsb', BitVec.getLsbD_append]
  simp [hi]

@[simp] theorem wordOf_blockOfWords_two (w0 w1 w2 w3 : Word) : wordOf (blockOfWords w0 w1 w2 w3) 2 = w2 := by
  ext i hi
  simp only [wordOf, blockOfWords, BitVec.getElem_extractLsb', BitVec.getLsbD_append]
  simp [hi, show ¬ (32 * 2 + i < 32) by omega, show 32 * 2 + i - 32 - 32 = i by omega, show ¬ (32 * 2 + i - 32 < 32) by omega]

@[simp] theorem wordOf_blockOfWords_three (w0 w1 w2 w3 : Word) : wordOf (blockOfWords w0 w1 w2 w3) 3 = w3 := by
  ext i hi
  simp only [wordOf, blockOfWords, BitVec.getElem_extractLsb', BitVec.getLsbD_append]
  simp [hi, show ¬ (32 * 3 + i < 32) by omega, show 32 * 3 + i - 32 - 32 - 32 = i by omega,
    show ¬ (32 * 3 + i - 32 < 32) by omega, show ¬ (32 * 3 + i - 32 - 32 < 32) by omega]

/-- A block is its four words. -/
theorem blockOfWords_wordOf (b : Block) : blockOfWords (wordOf b 0) (wordOf b 1) (wordOf b 2) (wordOf b 3) = b := by
  apply BitVec.eq_of_getLsbD_eq
  intro i hi
  simp only [wordOf, blockOfWords, BitVec.getLsbD_append, BitVec.getLsbD_extractLsb']
  rcases lt_or_ge i 32 with h | h
  · simp [h]
  · rcases lt_or_ge i 64 with h2 | h2
    · simp [show ¬ i < 32 by omega, show i - 32 < 32 by omega, show 32 + (i - 32) = i by omega]
    · rcases lt_or_ge i 96 with h3 | h3
      · simp [show ¬ i < 32 by omega, show ¬ i - 32 < 32 by omega, show i - 32 - 32 < 32 by omega,
          show 32 * 2 + (i - 32 - 32) = i by omega]
      · simp [show ¬ i < 32 by omega, show ¬ i - 32 < 32 by omega, show ¬ i - 32 - 32 < 32 by omega,
          show i - 32 - 32 - 32 < 32 by omega, show 32 * 3 + (i - 32 - 32 - 32) = i by omega]

/-- Two blocks with the same words are equal. -/
theorem block_eq_of_words {b c : Block} (h0 : wordOf b 0 = wordOf c 0) (h1 : wordOf b 1 = wordOf c 1)
    (h2 : wordOf b 2 = wordOf c 2) (h3 : wordOf b 3 = wordOf c 3) : b = c := by
  rw [← blockOfWords_wordOf b, ← blockOfWords_wordOf c, h0, h1, h2, h3]

/-! ### Bytes of a word -/

@[simp] theorem byteOfWord_wordOfBytes_zero (a0 a1 a2 a3 : Byte) : byteOfWord (wordOfBytes a0 a1 a2 a3) 0 = a0 := by
  apply BitVec.eq_of_getLsbD_eq
  intro i hi
  simp only [byteOfWord, wordOfBytes, BitVec.getLsbD_append, BitVec.getLsbD_extractLsb']
  simp [hi]

@[simp] theorem byteOfWord_wordOfBytes_one (a0 a1 a2 a3 : Byte) : byteOfWord (wordOfBytes a0 a1 a2 a3) 1 = a1 := by
  apply BitVec.eq_of_getLsbD_eq
  intro i hi
  simp only [byteOfWord, wordOfBytes, BitVec.getLsbD_append, BitVec.getLsbD_extractLsb']
  simp [hi]

@[simp] theorem byteOfWord_wordOfBytes_two (a0 a1 a2 a3 : Byte) : byteOfWord (wordOfBytes a0 a1 a2 a3) 2 = a2 := by
  apply BitVec.eq_of_getLsbD_eq
  intro i hi
  simp only [byteOfWord, wordOfBytes, BitVec.getLsbD_append, BitVec.getLsbD_extractLsb']
  simp [hi, show ¬ (8 * 2 + i < 8) by omega, show ¬ (8 * 2 + i - 8 < 8) by omega, show 8 * 2 + i - 8 - 8 = i by omega]

@[simp] theorem byteOfWord_wordOfBytes_three (a0 a1 a2 a3 : Byte) : byteOfWord (wordOfBytes a0 a1 a2 a3) 3 = a3 := by
  apply BitVec.eq_of_getLsbD_eq
  intro i hi
  simp only [byteOfWord, wordOfBytes, BitVec.getLsbD_append, BitVec.getLsbD_extractLsb']
  simp [hi, show ¬ (8 * 3 + i < 8) by omega, show ¬ (8 * 3 + i - 8 < 8) by omega,
    show ¬ (8 * 3 + i - 8 - 8 < 8) by omega, show 8 * 3 + i - 8 - 8 - 8 = i by omega]

/-- A word is its four bytes. -/
theorem wordOfBytes_byteOfWord (w : Word) :
    wordOfBytes (byteOfWord w 0) (byteOfWord w 1) (byteOfWord w 2) (byteOfWord w 3) = w := by
  apply BitVec.eq_of_getLsbD_eq
  intro i hi
  simp only [byteOfWord, wordOfBytes, BitVec.getLsbD_append, BitVec.getLsbD_extractLsb']
  rcases lt_or_ge i 8 with h | h
  · simp [h]
  · rcases lt_or_ge i 16 with h2 | h2
    · simp [show ¬ i < 8 by omega, show i - 8 < 8 by omega, show 8 + (i - 8) = i by omega]
    · rcases lt_or_ge i 24 with h3 | h3
      · simp [show ¬ i < 8 by omega, show ¬ i - 8 < 8 by omega, show i - 8 - 8 < 8 by omega,
          show 8 * 2 + (i - 8 - 8) = i by omega]
      · simp [show ¬ i < 8 by omega, show ¬ i - 8 < 8 by omega, show ¬ i - 8 - 8 < 8 by omega,
          show i - 8 - 8 - 8 < 8 by omega, show 8 * 3 + (i - 8 - 8 - 8) = i by omega]

/-- Two words with the same bytes are equal. -/
theorem word_eq_of_bytes {v w : Word} (h : ∀ i < 4, byteOfWord v i = byteOfWord w i) : v = w := by
  rw [← wordOfBytes_byteOfWord v, ← wordOfBytes_byteOfWord w, h 0 (by omega), h 1 (by omega), h 2 (by omega),
    h 3 (by omega)]

/-! ### Bytes of a block -/

/-- Byte `i` of a block is byte `i mod 4` of word `i / 4` (R16). -/
theorem byteOf_eq_byteOfWord (b : Block) (i : Nat) : byteOf b i = byteOfWord (wordOf b (i / 4)) (i % 4) := by
  apply BitVec.eq_of_getLsbD_eq
  intro j hj
  simp only [byteOf, byteOfWord, wordOf, BitVec.getLsbD_extractLsb']
  rw [show 32 * (i / 4) + (8 * (i % 4) + j) = 8 * i + j by omega]
  simp [show 8 * (i % 4) + j < 32 by omega]

/-- A block built from bytes has those bytes. -/
theorem byteOf_blockOfBytes (f : Nat → Byte) {i : Nat} (h : i < 16) : byteOf (blockOfBytes f) i = f i := by
  rw [byteOf_eq_byteOfWord]
  interval_cases i <;> simp [blockOfBytes]

/-- Two blocks with the same bytes are equal. -/
theorem block_eq_of_bytes {b c : Block} (h : ∀ i < 16, byteOf b i = byteOf c i) : b = c := by
  have hw : ∀ j < 4, wordOf b j = wordOf c j := fun j hj => word_eq_of_bytes fun i hi => by
    have := h (4 * j + i) (by omega)
    rwa [byteOf_eq_byteOfWord, byteOf_eq_byteOfWord, show (4 * j + i) / 4 = j by omega,
      show (4 * j + i) % 4 = i by omega] at this
  exact block_eq_of_words (hw 0 (by omega)) (hw 1 (by omega)) (hw 2 (by omega)) (hw 3 (by omega))

/-- A block is its sixteen bytes. -/
theorem blockOfBytes_byteOf (b : Block) : blockOfBytes (byteOf b) = b :=
  block_eq_of_bytes fun _ hi => byteOf_blockOfBytes _ hi

/-! ### `xor` part by part (R18) -/

@[simp] theorem byteOf_xor (b c : Block) (i : Nat) : byteOf (b ^^^ c) i = byteOf b i ^^^ byteOf c i := by
  apply BitVec.eq_of_getLsbD_eq
  intro j hj
  simp [byteOf, hj]

@[simp] theorem wordOf_xor (b c : Block) (j : Nat) : wordOf (b ^^^ c) j = wordOf b j ^^^ wordOf c j := by
  apply BitVec.eq_of_getLsbD_eq
  intro i hi
  simp [wordOf, hi]

@[simp] theorem byteOfWord_xor (v w : Word) (i : Nat) : byteOfWord (v ^^^ w) i = byteOfWord v i ^^^ byteOfWord w i := by
  apply BitVec.eq_of_getLsbD_eq
  intro j hj
  simp [byteOfWord, hj]

end Sys2Proof.Machine
end

