-- ==== Sys2Proof/Laws/State.lean ====
section
/-! SUPPORT. What each update of the state leaves and writes, one lemma per field per update. -/

namespace Sys2Proof.Machine

/-! ### Memory updates -/

@[simp] theorem State.setMem_x (s : State) (sp : Space) (m : Memory) : (s.setMem sp m).x = s.x := by cases sp <;> rfl
@[simp] theorem State.setMem_k (s : State) (sp : Space) (m : Memory) : (s.setMem sp m).k = s.k := by cases sp <;> rfl
@[simp] theorem State.setMem_seq (s : State) (sp : Space) (m : Memory) : (s.setMem sp m).seq = s.seq := by cases sp <;> rfl
@[simp] theorem State.setMem_status (s : State) (sp : Space) (m : Memory) : (s.setMem sp m).status = s.status := by cases sp <;> rfl
@[simp] theorem State.setMem_prefetchEn (s : State) (sp : Space) (m : Memory) : (s.setMem sp m).prefetchEn = s.prefetchEn := by cases sp <;> rfl
@[simp] theorem State.setMem_faultCmd (s : State) (sp : Space) (m : Memory) : (s.setMem sp m).faultCmd = s.faultCmd := by cases sp <;> rfl
@[simp] theorem State.setMem_geometry (s : State) (sp : Space) (m : Memory) : (s.setMem sp m).geometry = s.geometry := by cases sp <;> rfl
@[simp] theorem State.setMem_running (s : State) (sp : Space) (m : Memory) : (s.setMem sp m).running = s.running := by cases sp <;> rfl
@[simp] theorem State.setMem_pending (s : State) (sp : Space) (m : Memory) : (s.setMem sp m).pending = s.pending := by cases sp <;> rfl
@[simp] theorem State.setMem_replies (s : State) (sp : Space) (m : Memory) : (s.setMem sp m).replies = s.replies := by cases sp <;> rfl
@[simp] theorem State.setMem_draws (s : State) (sp : Space) (m : Memory) : (s.setMem sp m).draws = s.draws := by cases sp <;> rfl

@[simp] theorem State.writeByte_x (s : State) (sp : Space) (a : Nat) (v : Byte) : (s.writeByte sp a v).x = s.x := by simp [State.writeByte]
@[simp] theorem State.writeByte_k (s : State) (sp : Space) (a : Nat) (v : Byte) : (s.writeByte sp a v).k = s.k := by simp [State.writeByte]
@[simp] theorem State.writeByte_seq (s : State) (sp : Space) (a : Nat) (v : Byte) : (s.writeByte sp a v).seq = s.seq := by simp [State.writeByte]
@[simp] theorem State.writeByte_status (s : State) (sp : Space) (a : Nat) (v : Byte) : (s.writeByte sp a v).status = s.status := by simp [State.writeByte]
@[simp] theorem State.writeByte_prefetchEn (s : State) (sp : Space) (a : Nat) (v : Byte) : (s.writeByte sp a v).prefetchEn = s.prefetchEn := by simp [State.writeByte]
@[simp] theorem State.writeByte_faultCmd (s : State) (sp : Space) (a : Nat) (v : Byte) : (s.writeByte sp a v).faultCmd = s.faultCmd := by simp [State.writeByte]
@[simp] theorem State.writeByte_geometry (s : State) (sp : Space) (a : Nat) (v : Byte) : (s.writeByte sp a v).geometry = s.geometry := by simp [State.writeByte]
@[simp] theorem State.writeByte_running (s : State) (sp : Space) (a : Nat) (v : Byte) : (s.writeByte sp a v).running = s.running := by simp [State.writeByte]
@[simp] theorem State.writeByte_pending (s : State) (sp : Space) (a : Nat) (v : Byte) : (s.writeByte sp a v).pending = s.pending := by simp [State.writeByte]
@[simp] theorem State.writeByte_replies (s : State) (sp : Space) (a : Nat) (v : Byte) : (s.writeByte sp a v).replies = s.replies := by simp [State.writeByte]
@[simp] theorem State.writeByte_draws (s : State) (sp : Space) (a : Nat) (v : Byte) : (s.writeByte sp a v).draws = s.draws := by simp [State.writeByte]

@[simp] theorem State.writeBytes_x (s : State) (sp : Space) (a : Nat) (vs : List Byte) : (s.writeBytes sp a vs).x = s.x := by
  induction vs generalizing s a <;> simp_all [State.writeBytes]
@[simp] theorem State.writeBytes_k (s : State) (sp : Space) (a : Nat) (vs : List Byte) : (s.writeBytes sp a vs).k = s.k := by
  induction vs generalizing s a <;> simp_all [State.writeBytes]
@[simp] theorem State.writeBytes_seq (s : State) (sp : Space) (a : Nat) (vs : List Byte) : (s.writeBytes sp a vs).seq = s.seq := by
  induction vs generalizing s a <;> simp_all [State.writeBytes]
@[simp] theorem State.writeBytes_status (s : State) (sp : Space) (a : Nat) (vs : List Byte) : (s.writeBytes sp a vs).status = s.status := by
  induction vs generalizing s a <;> simp_all [State.writeBytes]
@[simp] theorem State.writeBytes_prefetchEn (s : State) (sp : Space) (a : Nat) (vs : List Byte) : (s.writeBytes sp a vs).prefetchEn = s.prefetchEn := by
  induction vs generalizing s a <;> simp_all [State.writeBytes]
@[simp] theorem State.writeBytes_faultCmd (s : State) (sp : Space) (a : Nat) (vs : List Byte) : (s.writeBytes sp a vs).faultCmd = s.faultCmd := by
  induction vs generalizing s a <;> simp_all [State.writeBytes]
@[simp] theorem State.writeBytes_geometry (s : State) (sp : Space) (a : Nat) (vs : List Byte) : (s.writeBytes sp a vs).geometry = s.geometry := by
  induction vs generalizing s a <;> simp_all [State.writeBytes]
@[simp] theorem State.writeBytes_running (s : State) (sp : Space) (a : Nat) (vs : List Byte) : (s.writeBytes sp a vs).running = s.running := by
  induction vs generalizing s a <;> simp_all [State.writeBytes]
@[simp] theorem State.writeBytes_pending (s : State) (sp : Space) (a : Nat) (vs : List Byte) : (s.writeBytes sp a vs).pending = s.pending := by
  induction vs generalizing s a <;> simp_all [State.writeBytes]
@[simp] theorem State.writeBytes_replies (s : State) (sp : Space) (a : Nat) (vs : List Byte) : (s.writeBytes sp a vs).replies = s.replies := by
  induction vs generalizing s a <;> simp_all [State.writeBytes]
@[simp] theorem State.writeBytes_draws (s : State) (sp : Space) (a : Nat) (vs : List Byte) : (s.writeBytes sp a vs).draws = s.draws := by
  induction vs generalizing s a <;> simp_all [State.writeBytes]

@[simp] theorem State.writeBlock_x (s : State) (sp : Space) (i : Nat) (v : Block) : (s.writeBlock sp i v).x = s.x := by simp [State.writeBlock]
@[simp] theorem State.writeBlock_k (s : State) (sp : Space) (i : Nat) (v : Block) : (s.writeBlock sp i v).k = s.k := by simp [State.writeBlock]
@[simp] theorem State.writeBlock_seq (s : State) (sp : Space) (i : Nat) (v : Block) : (s.writeBlock sp i v).seq = s.seq := by simp [State.writeBlock]
@[simp] theorem State.writeBlock_status (s : State) (sp : Space) (i : Nat) (v : Block) : (s.writeBlock sp i v).status = s.status := by simp [State.writeBlock]
@[simp] theorem State.writeBlock_prefetchEn (s : State) (sp : Space) (i : Nat) (v : Block) : (s.writeBlock sp i v).prefetchEn = s.prefetchEn := by simp [State.writeBlock]
@[simp] theorem State.writeBlock_faultCmd (s : State) (sp : Space) (i : Nat) (v : Block) : (s.writeBlock sp i v).faultCmd = s.faultCmd := by simp [State.writeBlock]
@[simp] theorem State.writeBlock_geometry (s : State) (sp : Space) (i : Nat) (v : Block) : (s.writeBlock sp i v).geometry = s.geometry := by simp [State.writeBlock]
@[simp] theorem State.writeBlock_running (s : State) (sp : Space) (i : Nat) (v : Block) : (s.writeBlock sp i v).running = s.running := by simp [State.writeBlock]
@[simp] theorem State.writeBlock_pending (s : State) (sp : Space) (i : Nat) (v : Block) : (s.writeBlock sp i v).pending = s.pending := by simp [State.writeBlock]
@[simp] theorem State.writeBlock_replies (s : State) (sp : Space) (i : Nat) (v : Block) : (s.writeBlock sp i v).replies = s.replies := by simp [State.writeBlock]
@[simp] theorem State.writeBlock_draws (s : State) (sp : Space) (i : Nat) (v : Block) : (s.writeBlock sp i v).draws = s.draws := by simp [State.writeBlock]

@[simp] theorem State.writeBlocks_x (s : State) (sp : Space) (i : Nat) (vs : List Block) : (s.writeBlocks sp i vs).x = s.x := by
  induction vs generalizing s i <;> simp_all [State.writeBlocks]
@[simp] theorem State.writeBlocks_k (s : State) (sp : Space) (i : Nat) (vs : List Block) : (s.writeBlocks sp i vs).k = s.k := by
  induction vs generalizing s i <;> simp_all [State.writeBlocks]
@[simp] theorem State.writeBlocks_seq (s : State) (sp : Space) (i : Nat) (vs : List Block) : (s.writeBlocks sp i vs).seq = s.seq := by
  induction vs generalizing s i <;> simp_all [State.writeBlocks]
@[simp] theorem State.writeBlocks_status (s : State) (sp : Space) (i : Nat) (vs : List Block) : (s.writeBlocks sp i vs).status = s.status := by
  induction vs generalizing s i <;> simp_all [State.writeBlocks]
@[simp] theorem State.writeBlocks_prefetchEn (s : State) (sp : Space) (i : Nat) (vs : List Block) : (s.writeBlocks sp i vs).prefetchEn = s.prefetchEn := by
  induction vs generalizing s i <;> simp_all [State.writeBlocks]
@[simp] theorem State.writeBlocks_faultCmd (s : State) (sp : Space) (i : Nat) (vs : List Block) : (s.writeBlocks sp i vs).faultCmd = s.faultCmd := by
  induction vs generalizing s i <;> simp_all [State.writeBlocks]
@[simp] theorem State.writeBlocks_geometry (s : State) (sp : Space) (i : Nat) (vs : List Block) : (s.writeBlocks sp i vs).geometry = s.geometry := by
  induction vs generalizing s i <;> simp_all [State.writeBlocks]
@[simp] theorem State.writeBlocks_running (s : State) (sp : Space) (i : Nat) (vs : List Block) : (s.writeBlocks sp i vs).running = s.running := by
  induction vs generalizing s i <;> simp_all [State.writeBlocks]
@[simp] theorem State.writeBlocks_pending (s : State) (sp : Space) (i : Nat) (vs : List Block) : (s.writeBlocks sp i vs).pending = s.pending := by
  induction vs generalizing s i <;> simp_all [State.writeBlocks]
@[simp] theorem State.writeBlocks_replies (s : State) (sp : Space) (i : Nat) (vs : List Block) : (s.writeBlocks sp i vs).replies = s.replies := by
  induction vs generalizing s i <;> simp_all [State.writeBlocks]
@[simp] theorem State.writeBlocks_draws (s : State) (sp : Space) (i : Nat) (vs : List Block) : (s.writeBlocks sp i vs).draws = s.draws := by
  induction vs generalizing s i <;> simp_all [State.writeBlocks]

@[simp] theorem State.leaveUnspecified_x (s : State) (sp : Space) (a n : Nat) : (s.leaveUnspecified sp a n).x = s.x := by
  induction n generalizing s a <;> simp_all [State.leaveUnspecified]
@[simp] theorem State.leaveUnspecified_k (s : State) (sp : Space) (a n : Nat) : (s.leaveUnspecified sp a n).k = s.k := by
  induction n generalizing s a <;> simp_all [State.leaveUnspecified]
@[simp] theorem State.leaveUnspecified_seq (s : State) (sp : Space) (a n : Nat) : (s.leaveUnspecified sp a n).seq = s.seq := by
  induction n generalizing s a <;> simp_all [State.leaveUnspecified]
@[simp] theorem State.leaveUnspecified_status (s : State) (sp : Space) (a n : Nat) : (s.leaveUnspecified sp a n).status = s.status := by
  induction n generalizing s a <;> simp_all [State.leaveUnspecified]
@[simp] theorem State.leaveUnspecified_prefetchEn (s : State) (sp : Space) (a n : Nat) : (s.leaveUnspecified sp a n).prefetchEn = s.prefetchEn := by
  induction n generalizing s a <;> simp_all [State.leaveUnspecified]
@[simp] theorem State.leaveUnspecified_faultCmd (s : State) (sp : Space) (a n : Nat) : (s.leaveUnspecified sp a n).faultCmd = s.faultCmd := by
  induction n generalizing s a <;> simp_all [State.leaveUnspecified]
@[simp] theorem State.leaveUnspecified_geometry (s : State) (sp : Space) (a n : Nat) : (s.leaveUnspecified sp a n).geometry = s.geometry := by
  induction n generalizing s a <;> simp_all [State.leaveUnspecified]
@[simp] theorem State.leaveUnspecified_running (s : State) (sp : Space) (a n : Nat) : (s.leaveUnspecified sp a n).running = s.running := by
  induction n generalizing s a <;> simp_all [State.leaveUnspecified]
@[simp] theorem State.leaveUnspecified_pending (s : State) (sp : Space) (a n : Nat) : (s.leaveUnspecified sp a n).pending = s.pending := by
  induction n generalizing s a <;> simp_all [State.leaveUnspecified]
@[simp] theorem State.leaveUnspecified_replies (s : State) (sp : Space) (a n : Nat) : (s.leaveUnspecified sp a n).replies = s.replies := by
  induction n generalizing s a <;> simp_all [State.leaveUnspecified]
@[simp] theorem State.leaveUnspecified_draws (s : State) (sp : Space) (a n : Nat) : (s.leaveUnspecified sp a n).draws = s.draws := by
  induction n generalizing s a <;> simp_all [State.leaveUnspecified]

/-! ### Register updates -/

@[simp] theorem State.setLane_k (s : State) (d : Nat) (v : Block) : (s.setLane d v).k = s.k := rfl
@[simp] theorem State.setLane_seq (s : State) (d : Nat) (v : Block) : (s.setLane d v).seq = s.seq := rfl
@[simp] theorem State.setLane_status (s : State) (d : Nat) (v : Block) : (s.setLane d v).status = s.status := rfl
@[simp] theorem State.setLane_prefetchEn (s : State) (d : Nat) (v : Block) : (s.setLane d v).prefetchEn = s.prefetchEn := rfl
@[simp] theorem State.setLane_faultCmd (s : State) (d : Nat) (v : Block) : (s.setLane d v).faultCmd = s.faultCmd := rfl
@[simp] theorem State.setLane_geometry (s : State) (d : Nat) (v : Block) : (s.setLane d v).geometry = s.geometry := rfl
@[simp] theorem State.setLane_stateMem (s : State) (d : Nat) (v : Block) : (s.setLane d v).stateMem = s.stateMem := rfl
@[simp] theorem State.setLane_padMem (s : State) (d : Nat) (v : Block) : (s.setLane d v).padMem = s.padMem := rfl
@[simp] theorem State.setLane_running (s : State) (d : Nat) (v : Block) : (s.setLane d v).running = s.running := rfl
@[simp] theorem State.setLane_pending (s : State) (d : Nat) (v : Block) : (s.setLane d v).pending = s.pending := rfl
@[simp] theorem State.setLane_replies (s : State) (d : Nat) (v : Block) : (s.setLane d v).replies = s.replies := rfl
@[simp] theorem State.setLane_draws (s : State) (d : Nat) (v : Block) : (s.setLane d v).draws = s.draws := rfl

@[simp] theorem State.setKey_x (s : State) (d : Nat) (v : Block) : (s.setKey d v).x = s.x := rfl
@[simp] theorem State.setKey_seq (s : State) (d : Nat) (v : Block) : (s.setKey d v).seq = s.seq := rfl
@[simp] theorem State.setKey_status (s : State) (d : Nat) (v : Block) : (s.setKey d v).status = s.status := rfl
@[simp] theorem State.setKey_prefetchEn (s : State) (d : Nat) (v : Block) : (s.setKey d v).prefetchEn = s.prefetchEn := rfl
@[simp] theorem State.setKey_faultCmd (s : State) (d : Nat) (v : Block) : (s.setKey d v).faultCmd = s.faultCmd := rfl
@[simp] theorem State.setKey_geometry (s : State) (d : Nat) (v : Block) : (s.setKey d v).geometry = s.geometry := rfl
@[simp] theorem State.setKey_stateMem (s : State) (d : Nat) (v : Block) : (s.setKey d v).stateMem = s.stateMem := rfl
@[simp] theorem State.setKey_padMem (s : State) (d : Nat) (v : Block) : (s.setKey d v).padMem = s.padMem := rfl
@[simp] theorem State.setKey_running (s : State) (d : Nat) (v : Block) : (s.setKey d v).running = s.running := rfl
@[simp] theorem State.setKey_pending (s : State) (d : Nat) (v : Block) : (s.setKey d v).pending = s.pending := rfl
@[simp] theorem State.setKey_replies (s : State) (d : Nat) (v : Block) : (s.setKey d v).replies = s.replies := rfl
@[simp] theorem State.setKey_draws (s : State) (d : Nat) (v : Block) : (s.setKey d v).draws = s.draws := rfl

@[simp] theorem State.setLanes_k (s : State) (d : Nat) (vs : List Block) : (s.setLanes d vs).k = s.k := by
  induction vs generalizing s d <;> simp_all [State.setLanes]
@[simp] theorem State.setLanes_seq (s : State) (d : Nat) (vs : List Block) : (s.setLanes d vs).seq = s.seq := by
  induction vs generalizing s d <;> simp_all [State.setLanes]
@[simp] theorem State.setLanes_status (s : State) (d : Nat) (vs : List Block) : (s.setLanes d vs).status = s.status := by
  induction vs generalizing s d <;> simp_all [State.setLanes]
@[simp] theorem State.setLanes_prefetchEn (s : State) (d : Nat) (vs : List Block) : (s.setLanes d vs).prefetchEn = s.prefetchEn := by
  induction vs generalizing s d <;> simp_all [State.setLanes]
@[simp] theorem State.setLanes_faultCmd (s : State) (d : Nat) (vs : List Block) : (s.setLanes d vs).faultCmd = s.faultCmd := by
  induction vs generalizing s d <;> simp_all [State.setLanes]
@[simp] theorem State.setLanes_geometry (s : State) (d : Nat) (vs : List Block) : (s.setLanes d vs).geometry = s.geometry := by
  induction vs generalizing s d <;> simp_all [State.setLanes]
@[simp] theorem State.setLanes_stateMem (s : State) (d : Nat) (vs : List Block) : (s.setLanes d vs).stateMem = s.stateMem := by
  induction vs generalizing s d <;> simp_all [State.setLanes]
@[simp] theorem State.setLanes_padMem (s : State) (d : Nat) (vs : List Block) : (s.setLanes d vs).padMem = s.padMem := by
  induction vs generalizing s d <;> simp_all [State.setLanes]
@[simp] theorem State.setLanes_running (s : State) (d : Nat) (vs : List Block) : (s.setLanes d vs).running = s.running := by
  induction vs generalizing s d <;> simp_all [State.setLanes]
@[simp] theorem State.setLanes_pending (s : State) (d : Nat) (vs : List Block) : (s.setLanes d vs).pending = s.pending := by
  induction vs generalizing s d <;> simp_all [State.setLanes]
@[simp] theorem State.setLanes_replies (s : State) (d : Nat) (vs : List Block) : (s.setLanes d vs).replies = s.replies := by
  induction vs generalizing s d <;> simp_all [State.setLanes]
@[simp] theorem State.setLanes_draws (s : State) (d : Nat) (vs : List Block) : (s.setLanes d vs).draws = s.draws := by
  induction vs generalizing s d <;> simp_all [State.setLanes]

@[simp] theorem State.setKeys_x (s : State) (d : Nat) (vs : List Block) : (s.setKeys d vs).x = s.x := by
  induction vs generalizing s d <;> simp_all [State.setKeys]
@[simp] theorem State.setKeys_seq (s : State) (d : Nat) (vs : List Block) : (s.setKeys d vs).seq = s.seq := by
  induction vs generalizing s d <;> simp_all [State.setKeys]
@[simp] theorem State.setKeys_status (s : State) (d : Nat) (vs : List Block) : (s.setKeys d vs).status = s.status := by
  induction vs generalizing s d <;> simp_all [State.setKeys]
@[simp] theorem State.setKeys_prefetchEn (s : State) (d : Nat) (vs : List Block) : (s.setKeys d vs).prefetchEn = s.prefetchEn := by
  induction vs generalizing s d <;> simp_all [State.setKeys]
@[simp] theorem State.setKeys_faultCmd (s : State) (d : Nat) (vs : List Block) : (s.setKeys d vs).faultCmd = s.faultCmd := by
  induction vs generalizing s d <;> simp_all [State.setKeys]
@[simp] theorem State.setKeys_geometry (s : State) (d : Nat) (vs : List Block) : (s.setKeys d vs).geometry = s.geometry := by
  induction vs generalizing s d <;> simp_all [State.setKeys]
@[simp] theorem State.setKeys_stateMem (s : State) (d : Nat) (vs : List Block) : (s.setKeys d vs).stateMem = s.stateMem := by
  induction vs generalizing s d <;> simp_all [State.setKeys]
@[simp] theorem State.setKeys_padMem (s : State) (d : Nat) (vs : List Block) : (s.setKeys d vs).padMem = s.padMem := by
  induction vs generalizing s d <;> simp_all [State.setKeys]
@[simp] theorem State.setKeys_running (s : State) (d : Nat) (vs : List Block) : (s.setKeys d vs).running = s.running := by
  induction vs generalizing s d <;> simp_all [State.setKeys]
@[simp] theorem State.setKeys_pending (s : State) (d : Nat) (vs : List Block) : (s.setKeys d vs).pending = s.pending := by
  induction vs generalizing s d <;> simp_all [State.setKeys]
@[simp] theorem State.setKeys_replies (s : State) (d : Nat) (vs : List Block) : (s.setKeys d vs).replies = s.replies := by
  induction vs generalizing s d <;> simp_all [State.setKeys]
@[simp] theorem State.setKeys_draws (s : State) (d : Nat) (vs : List Block) : (s.setKeys d vs).draws = s.draws := by
  induction vs generalizing s d <;> simp_all [State.setKeys]

@[simp] theorem State.destroyRegisters_seq (s : State) : (s.destroyRegisters).seq = s.seq := rfl
@[simp] theorem State.destroyRegisters_status (s : State) : (s.destroyRegisters).status = s.status := rfl
@[simp] theorem State.destroyRegisters_prefetchEn (s : State) : (s.destroyRegisters).prefetchEn = s.prefetchEn := rfl
@[simp] theorem State.destroyRegisters_faultCmd (s : State) : (s.destroyRegisters).faultCmd = s.faultCmd := rfl
@[simp] theorem State.destroyRegisters_geometry (s : State) : (s.destroyRegisters).geometry = s.geometry := rfl
@[simp] theorem State.destroyRegisters_stateMem (s : State) : (s.destroyRegisters).stateMem = s.stateMem := rfl
@[simp] theorem State.destroyRegisters_padMem (s : State) : (s.destroyRegisters).padMem = s.padMem := rfl
@[simp] theorem State.destroyRegisters_running (s : State) : (s.destroyRegisters).running = s.running := rfl
@[simp] theorem State.destroyRegisters_pending (s : State) : (s.destroyRegisters).pending = s.pending := rfl
@[simp] theorem State.destroyRegisters_replies (s : State) : (s.destroyRegisters).replies = s.replies := rfl
@[simp] theorem State.destroyRegisters_draws (s : State) : (s.destroyRegisters).draws = s.draws := rfl

@[simp] theorem State.idleSequencer_x (s : State) : (s.idleSequencer).x = s.x := rfl
@[simp] theorem State.idleSequencer_k (s : State) : (s.idleSequencer).k = s.k := rfl
@[simp] theorem State.idleSequencer_status (s : State) : (s.idleSequencer).status = s.status := rfl
@[simp] theorem State.idleSequencer_prefetchEn (s : State) : (s.idleSequencer).prefetchEn = s.prefetchEn := rfl
@[simp] theorem State.idleSequencer_faultCmd (s : State) : (s.idleSequencer).faultCmd = s.faultCmd := rfl
@[simp] theorem State.idleSequencer_geometry (s : State) : (s.idleSequencer).geometry = s.geometry := rfl
@[simp] theorem State.idleSequencer_stateMem (s : State) : (s.idleSequencer).stateMem = s.stateMem := rfl
@[simp] theorem State.idleSequencer_padMem (s : State) : (s.idleSequencer).padMem = s.padMem := rfl
@[simp] theorem State.idleSequencer_running (s : State) : (s.idleSequencer).running = s.running := rfl
@[simp] theorem State.idleSequencer_pending (s : State) : (s.idleSequencer).pending = s.pending := rfl
@[simp] theorem State.idleSequencer_replies (s : State) : (s.idleSequencer).replies = s.replies := rfl
@[simp] theorem State.idleSequencer_draws (s : State) : (s.idleSequencer).draws = s.draws := rfl

@[simp] theorem State.idleSequencer_seq (s : State) : s.idleSequencer.seq = ⟨.none, .idle, 0⟩ := rfl

/-! ### Issue, completion, fault, reset -/

@[simp] theorem raiseFault_x (c : Cause) (w : Word) (s : State) : (raiseFault c w s).x = s.x := rfl
@[simp] theorem raiseFault_k (c : Cause) (w : Word) (s : State) : (raiseFault c w s).k = s.k := rfl
@[simp] theorem raiseFault_seq (c : Cause) (w : Word) (s : State) : (raiseFault c w s).seq = s.seq := rfl
@[simp] theorem raiseFault_prefetchEn (c : Cause) (w : Word) (s : State) : (raiseFault c w s).prefetchEn = s.prefetchEn := rfl
@[simp] theorem raiseFault_geometry (c : Cause) (w : Word) (s : State) : (raiseFault c w s).geometry = s.geometry := rfl
@[simp] theorem raiseFault_stateMem (c : Cause) (w : Word) (s : State) : (raiseFault c w s).stateMem = s.stateMem := rfl
@[simp] theorem raiseFault_padMem (c : Cause) (w : Word) (s : State) : (raiseFault c w s).padMem = s.padMem := rfl
@[simp] theorem raiseFault_running (c : Cause) (w : Word) (s : State) : (raiseFault c w s).running = s.running := rfl
@[simp] theorem raiseFault_pending (c : Cause) (w : Word) (s : State) : (raiseFault c w s).pending = s.pending := rfl
@[simp] theorem raiseFault_replies (c : Cause) (w : Word) (s : State) : (raiseFault c w s).replies = s.replies := rfl
@[simp] theorem raiseFault_draws (c : Cause) (w : Word) (s : State) : (raiseFault c w s).draws = s.draws := rfl

@[simp] theorem raiseFault_status (c : Cause) (w : Word) (s : State) : (raiseFault c w s).status = ⟨false, true, c⟩ := rfl
@[simp] theorem raiseFault_faultCmd (c : Cause) (w : Word) (s : State) : (raiseFault c w s).faultCmd = w := rfl

@[simp] theorem acceptCommand_x (i : Instr) (s : State) : (acceptCommand i s).x = s.x := rfl
@[simp] theorem acceptCommand_k (i : Instr) (s : State) : (acceptCommand i s).k = s.k := rfl
@[simp] theorem acceptCommand_prefetchEn (i : Instr) (s : State) : (acceptCommand i s).prefetchEn = s.prefetchEn := rfl
@[simp] theorem acceptCommand_faultCmd (i : Instr) (s : State) : (acceptCommand i s).faultCmd = s.faultCmd := rfl
@[simp] theorem acceptCommand_geometry (i : Instr) (s : State) : (acceptCommand i s).geometry = s.geometry := rfl
@[simp] theorem acceptCommand_stateMem (i : Instr) (s : State) : (acceptCommand i s).stateMem = s.stateMem := rfl
@[simp] theorem acceptCommand_padMem (i : Instr) (s : State) : (acceptCommand i s).padMem = s.padMem := rfl
@[simp] theorem acceptCommand_pending (i : Instr) (s : State) : (acceptCommand i s).pending = s.pending := rfl
@[simp] theorem acceptCommand_replies (i : Instr) (s : State) : (acceptCommand i s).replies = s.replies := rfl
@[simp] theorem acceptCommand_draws (i : Instr) (s : State) : (acceptCommand i s).draws = s.draws := rfl

@[simp] theorem acceptCommand_status (i : Instr) (s : State) :
    (acceptCommand i s).status = ⟨true, s.status.fault, s.status.cause⟩ := rfl
@[simp] theorem acceptCommand_running (i : Instr) (s : State) : (acceptCommand i s).running = some i := rfl
@[simp] theorem acceptCommand_seq (i : Instr) (s : State) : (acceptCommand i s).seq = startSequencer i s.seq := rfl

@[simp] theorem completeCommand_x (s : State) : (completeCommand s).x = s.x := rfl
@[simp] theorem completeCommand_k (s : State) : (completeCommand s).k = s.k := rfl
@[simp] theorem completeCommand_seq (s : State) : (completeCommand s).seq = s.seq := rfl
@[simp] theorem completeCommand_prefetchEn (s : State) : (completeCommand s).prefetchEn = s.prefetchEn := rfl
@[simp] theorem completeCommand_faultCmd (s : State) : (completeCommand s).faultCmd = s.faultCmd := rfl
@[simp] theorem completeCommand_geometry (s : State) : (completeCommand s).geometry = s.geometry := rfl
@[simp] theorem completeCommand_stateMem (s : State) : (completeCommand s).stateMem = s.stateMem := rfl
@[simp] theorem completeCommand_padMem (s : State) : (completeCommand s).padMem = s.padMem := rfl
@[simp] theorem completeCommand_pending (s : State) : (completeCommand s).pending = s.pending := rfl
@[simp] theorem completeCommand_replies (s : State) : (completeCommand s).replies = s.replies := rfl
@[simp] theorem completeCommand_draws (s : State) : (completeCommand s).draws = s.draws := rfl

@[simp] theorem completeCommand_status (s : State) :
    (completeCommand s).status = ⟨false, s.status.fault, s.status.cause⟩ := rfl
@[simp] theorem completeCommand_running (s : State) : (completeCommand s).running = none := rfl

@[simp] theorem State.resetEngine_geometry (s : State) : (s.resetEngine).geometry = s.geometry := rfl
@[simp] theorem State.resetEngine_stateMem (s : State) : (s.resetEngine).stateMem = s.stateMem := rfl
@[simp] theorem State.resetEngine_padMem (s : State) : (s.resetEngine).padMem = s.padMem := rfl
@[simp] theorem State.resetEngine_pending (s : State) : (s.resetEngine).pending = s.pending := rfl
@[simp] theorem State.resetEngine_replies (s : State) : (s.resetEngine).replies = s.replies := rfl
@[simp] theorem State.resetEngine_draws (s : State) : (s.resetEngine).draws = s.draws := rfl

@[simp] theorem State.resetEngine_status (s : State) : s.resetEngine.status = ⟨false, false, .none⟩ := rfl
@[simp] theorem State.resetEngine_seq (s : State) : s.resetEngine.seq = ⟨.none, .idle, 0⟩ := rfl
@[simp] theorem State.resetEngine_prefetchEn (s : State) : s.resetEngine.prefetchEn = false := rfl
@[simp] theorem State.resetEngine_faultCmd (s : State) : s.resetEngine.faultCmd = 0#32 := rfl
@[simp] theorem State.resetEngine_running (s : State) : s.resetEngine.running = none := rfl

end Sys2Proof.Machine
end

