-- ==== Sys2Proof/Laws/Commands.lean ====
section
/-! SUPPORT. What issuing a command can do: the two faults, or acceptance, effect and completion (R91, R231 to R234); and
what the port's operations can answer. -/

namespace Sys2Proof.Machine

/-- A command with an operand out of range meets `ILLEGAL_CMD`. -/
theorem commandFault_illegal {i : Instr} {s : State} (h : i.wellFormed = false) : commandFault i s = .illegalCmd := by
  simp [commandFault, h]

/-- A legal command with an empty source meets `NO_VALUE`. -/
theorem commandFault_noValue {i : Instr} {s : State} (h : i.wellFormed = true) (hs : sourcesHeld i s = false) :
    commandFault i s = .noValue := by
  simp [commandFault, h, hs]

/-- A legal command whose sources hold values meets no fault. -/
theorem commandFault_none {i : Instr} {s : State} (h : i.wellFormed = true) (hs : sourcesHeld i s = true) :
    commandFault i s = .none := by
  simp [commandFault, h, hs]

/-- The command runs to completion. -/
theorem runCommand_completes {i : Instr} {s : State} (effect : State → State) (h : i.wellFormed = true)
    (hs : sourcesHeld i s = true) :
    runCommand i s effect = .next (completeCommand (effect (acceptCommand i s))) := by
  simp [runCommand, commandFault_none h hs]

/-- The command faults with `ILLEGAL_CMD` and has no effect. -/
theorem runCommand_illegal {i : Instr} {s : State} (effect : State → State) (h : i.wellFormed = false) :
    runCommand i s effect = .next (raiseFault .illegalCmd (encode i) s) := by
  simp [runCommand, commandFault_illegal h]

/-- The command faults with `NO_VALUE` and has no effect. -/
theorem runCommand_noValue {i : Instr} {s : State} (effect : State → State) (h : i.wellFormed = true)
    (hs : sourcesHeld i s = false) :
    runCommand i s effect = .next (raiseFault .noValue (encode i) s) := by
  simp [runCommand, commandFault_noValue h hs]

/-- A command answers a next state: a fault of the engine, or its completion. -/
theorem runCommand_next (i : Instr) (s : State) (effect : State → State) :
    runCommand i s effect = .next (raiseFault .illegalCmd (encode i) s) ∨
    runCommand i s effect = .next (raiseFault .noValue (encode i) s) ∨
    runCommand i s effect = .next (completeCommand (effect (acceptCommand i s))) := by
  cases h : i.wellFormed with
  | false => exact .inl (runCommand_illegal effect h)
  | true =>
    cases hs : sourcesHeld i s with
    | false => exact .inr (.inl (runCommand_noValue effect h hs))
    | true => exact .inr (.inr (runCommand_completes effect h hs))

/-- With no host action to come, an idle engine waits. -/
theorem step_idle {s : State} (hp : s.pending = []) (hb : s.status.busy = false) : step s = .next s := by
  simp [step, portStep, hp, hb]

/-- With no host action to come, a busy engine makes a micro-step. -/
theorem step_busy {s : State} (hp : s.pending = []) (hb : s.status.busy = true) : step s = engineStep s := by
  simp [step, portStep, hp, hb]

/-- The next host action is done. -/
theorem step_action {s : State} {a : HostAction} {rest : List HostAction} (hp : s.pending = a :: rest) :
    step s = hostStep a s { s with pending := rest } := by
  simp [step, portStep, hp]

end Sys2Proof.Machine
end

