-- ==== Sys2Proof/Laws/Memory.lean ====
section
/-! SUPPORT. Memory: the canonical form is kept, a read after a write gives the value written, and a write leaves every
other byte alone (R50 to R54, R60). -/

namespace Sys2Proof.Machine

/-! ### The list of cells -/

/-- A cell of a memory after a write is the written one or an earlier one. -/
theorem Memory.mem_write {m : Memory} {a : Nat} {v : Byte} {c : Host.Cell} (h : c ∈ Memory.write m a v) :
    c = (a, v) ∨ c ∈ m := by
  induction m with
  | nil => simpa [Memory.write] using h
  | cons d rest ih =>
    simp only [Memory.write] at h
    split at h
    · simpa using h
    · split at h
      · rcases List.mem_cons.1 h with h | h
        · exact .inl h
        · exact .inr (List.mem_cons_of_mem _ h)
      · rcases List.mem_cons.1 h with h | h
        · exact .inr (h ▸ List.mem_cons_self)
        · exact (ih h).imp id (List.mem_cons_of_mem _)

/-- A write keeps the canonical form. -/
theorem Memory.write_wf {m : Memory} (a : Nat) (v : Byte) (h : Memory.wf m) : Memory.wf (Memory.write m a v) := by
  induction m with
  | nil => simp [Memory.write, Memory.wf]
  | cons c rest ih =>
    obtain ⟨hc, hrest⟩ := List.pairwise_cons.1 h
    simp only [Memory.write]
    split
    · rename_i hlt
      refine List.pairwise_cons.2 ⟨fun d hd => ?_, h⟩
      rcases List.mem_cons.1 hd with rfl | hd
      · exact hlt
      · exact Nat.lt_trans hlt (hc d hd)
    · split
      · rename_i heq
        exact List.pairwise_cons.2 ⟨fun d hd => heq ▸ hc d hd, hrest⟩
      · refine List.pairwise_cons.2 ⟨fun d hd => ?_, ih hrest⟩
        rcases Memory.mem_write hd with rfl | hd
        · simp only; omega
        · exact hc d hd

/-- A read at the written address gives the value written. -/
theorem Memory.lookup_write_same (m : Memory) (a : Nat) (v : Byte) : (Memory.write m a v).lookup a = some v := by
  induction m with
  | nil => simp [Memory.write, Memory.lookup]
  | cons c rest ih =>
    simp only [Memory.write]
    split
    · simp [Memory.lookup]
    · split
      · simp [Memory.lookup]
      · rename_i h
        simp [Memory.lookup, Ne.symm h, ih]

/-- A read at any other address is as before. -/
theorem Memory.lookup_write_other (m : Memory) {a b : Nat} (v : Byte) (h : b ≠ a) :
    (Memory.write m a v).lookup b = m.lookup b := by
  induction m with
  | nil => simp [Memory.write, Memory.lookup, Ne.symm h]
  | cons c rest ih =>
    simp only [Memory.write]
    split
    · simp [Memory.lookup, Ne.symm h]
    · split
      · rename_i h1
        simp [Memory.lookup, ← h1, Ne.symm h]
      · simp [Memory.lookup, ih]

/-! ### Both spaces of a state -/

@[simp] theorem State.mem_setMem_same (s : State) (sp : Space) (m : Memory) : (s.setMem sp m).mem sp = m := by
  cases sp <;> rfl

theorem State.mem_setMem_other (s : State) {sp sp' : Space} (m : Memory) (h : sp' ≠ sp) :
    (s.setMem sp m).mem sp' = s.mem sp' := by
  cases sp <;> cases sp' <;> first | rfl | exact absurd rfl h

/-- Reading a byte after writing one: the written value at its address, everything else as before. -/
theorem State.readByte_writeByte (s : State) (sp sp' : Space) (a b : Nat) (v : Byte) :
    (s.writeByte sp a v).readByte sp' b = if sp' = sp ∧ b = a then v else s.readByte sp' b := by
  by_cases hs : sp' = sp
  · subst hs
    by_cases hb : b = a
    · subst hb
      simp [State.readByte, State.writeByte, Memory.lookup_write_same]
    · simp [State.readByte, State.writeByte, Memory.lookup_write_other _ _ hb, hb]
  · simp [State.readByte, State.writeByte, State.mem_setMem_other _ _ hs, hs]

/-- Bytes outside a written range read as before. -/
theorem State.readByte_writeBytes_outside (s : State) (sp sp' : Space) (a b : Nat) (vs : List Byte)
    (h : sp' = sp → b < a ∨ a + vs.length ≤ b) :
    (s.writeBytes sp a vs).readByte sp' b = s.readByte sp' b := by
  induction vs generalizing s a with
  | nil => rfl
  | cons v rest ih =>
    have h' : sp' = sp → b < a ∨ a + (rest.length + 1) ≤ b := h
    rw [State.writeBytes, ih, State.readByte_writeByte, if_neg]
    · rintro ⟨hs, rfl⟩
      have := h' hs
      omega
    · intro hs
      have := h' hs
      omega

/-- Bytes inside a written range read as written. -/
theorem State.readByte_writeBytes_inside (s : State) (sp : Space) (a i : Nat) (vs : List Byte) (h : i < vs.length) :
    (s.writeBytes sp a vs).readByte sp (a + i) = vs[i] := by
  induction vs generalizing s a i with
  | nil => simp at h
  | cons v rest ih =>
    rw [State.writeBytes]
    cases i with
    | zero =>
      rw [State.readByte_writeBytes_outside _ _ _ _ _ _ (by intro; omega), State.readByte_writeByte]
      simp
    | succ i =>
      have := ih (s.writeByte sp a v) (a + 1) i (by simpa using h)
      rw [show a + 1 + i = a + (i + 1) by omega] at this
      simpa using this

@[simp] theorem length_blockBytes (b : Block) : (blockBytes b).length = 16 := by simp [blockBytes]

/-- A block reads as the value written to it. -/
theorem State.readBlock_writeBlock_same (s : State) (sp : Space) (i : Nat) (v : Block) :
    (s.writeBlock sp i v).readBlock sp i = v := by
  refine block_eq_of_bytes fun j hj => ?_
  rw [State.readBlock, byteOf_blockOfBytes _ hj, State.writeBlock,
    State.readByte_writeBytes_inside _ _ _ _ _ (by simpa using hj)]
  simp [blockBytes]

/-- A byte outside a written block reads as before. -/
theorem State.readByte_writeBlock_outside (s : State) (sp sp' : Space) (i b : Nat) (v : Block)
    (h : sp' = sp → b < blockAddress i ∨ blockAddress i + 16 ≤ b) :
    (s.writeBlock sp i v).readByte sp' b = s.readByte sp' b :=
  State.readByte_writeBytes_outside _ _ _ _ _ _ (by simpa using h)

/-- Two states whose bytes agree have the same blocks. -/
theorem State.readBlock_congr {s t : State} {sp : Space} {i : Nat}
    (h : ∀ j < 16, t.readByte sp (blockAddress i + j) = s.readByte sp (blockAddress i + j)) :
    t.readBlock sp i = s.readBlock sp i :=
  block_eq_of_bytes fun j hj => by
    rw [State.readBlock, State.readBlock, byteOf_blockOfBytes _ hj, byteOf_blockOfBytes _ hj, h j hj]

/-- Every other block reads as before. -/
theorem State.readBlock_writeBlock_other (s : State) (sp sp' : Space) (i k : Nat) (v : Block)
    (h : sp' = sp → k ≠ i) : (s.writeBlock sp i v).readBlock sp' k = s.readBlock sp' k :=
  State.readBlock_congr fun j hj => State.readByte_writeBlock_outside _ _ _ _ _ _ fun hs => by
    have := h hs
    simp only [blockAddress]
    omega

/-- A byte outside consecutive written blocks reads as before. -/
theorem State.readByte_writeBlocks_outside (s : State) (sp sp' : Space) (i b : Nat) (vs : List Block)
    (h : sp' = sp → b < blockAddress i ∨ blockAddress (i + vs.length) ≤ b) :
    (s.writeBlocks sp i vs).readByte sp' b = s.readByte sp' b := by
  induction vs generalizing s i with
  | nil => rfl
  | cons v rest ih =>
    have h' : sp' = sp → b < 16 * i ∨ 16 * (i + (rest.length + 1)) ≤ b := h
    rw [State.writeBlocks, ih, State.readByte_writeBlock_outside]
    · intro hs
      have := h' hs
      simp only [blockAddress]
      omega
    · intro hs
      have := h' hs
      simp only [blockAddress]
      omega

/-- Each of consecutive written blocks reads as written. -/
theorem State.readBlock_writeBlocks_inside (s : State) (sp : Space) (i k : Nat) (vs : List Block) (h : k < vs.length) :
    (s.writeBlocks sp i vs).readBlock sp (i + k) = vs[k] := by
  induction vs generalizing s i k with
  | nil => simp at h
  | cons v rest ih =>
    rw [State.writeBlocks]
    cases k with
    | zero =>
      rw [State.readBlock_congr (s := s.writeBlock sp i v) fun j hj => ?_]
      · simp [State.readBlock_writeBlock_same]
      · apply State.readByte_writeBlocks_outside
        intro
        simp only [blockAddress]
        omega
    | succ k =>
      have := ih (s.writeBlock sp i v) (i + 1) k (by simpa using h)
      rw [show i + 1 + k = i + (k + 1) by omega] at this
      simpa using this

/-! ### Every memory operation keeps the canonical form -/

/-- Both memories are in canonical form and list only addresses below the sizes of their spaces. -/
def State.memoriesOk (s : State) : Prop :=
  ∀ sp, Memory.wf (s.mem sp) ∧ ∀ c ∈ s.mem sp, c.1 < s.spaceSize sp

@[simp] theorem State.spaceSize_writeByte (s : State) (sp sp' : Space) (a : Nat) (v : Byte) :
    (s.writeByte sp a v).spaceSize sp' = s.spaceSize sp' := by
  cases sp' <;> simp [State.spaceSize]

theorem State.writeByte_memoriesOk {s : State} (sp : Space) {a : Nat} (v : Byte) (h : s.memoriesOk)
    (ha : a < s.spaceSize sp) : (s.writeByte sp a v).memoriesOk := by
  intro sp'
  rw [State.spaceSize_writeByte]
  by_cases hs : sp' = sp
  · subst hs
    simp only [State.writeByte, State.mem_setMem_same]
    refine ⟨Memory.write_wf a v (h sp').1, fun c hc => ?_⟩
    rcases Memory.mem_write hc with rfl | hc
    · exact ha
    · exact (h sp').2 c hc
  · simpa only [State.writeByte, State.mem_setMem_other _ _ hs] using h sp'

theorem State.writeBytes_memoriesOk {s : State} (sp : Space) {a : Nat} (vs : List Byte) (h : s.memoriesOk)
    (ha : a + vs.length ≤ s.spaceSize sp) : (s.writeBytes sp a vs).memoriesOk := by
  induction vs generalizing s a with
  | nil => exact h
  | cons v rest ih =>
    have ha' : a + (rest.length + 1) ≤ s.spaceSize sp := ha
    refine ih (State.writeByte_memoriesOk sp v h (by omega)) ?_
    rw [State.spaceSize_writeByte]
    omega

theorem State.writeBlock_memoriesOk {s : State} (sp : Space) {i : Nat} (v : Block) (h : s.memoriesOk)
    (hi : blockAddress (i + 1) ≤ s.spaceSize sp) : (s.writeBlock sp i v).memoriesOk := by
  refine State.writeBytes_memoriesOk sp _ h ?_
  simp only [blockAddress, length_blockBytes] at *
  omega

theorem State.spaceSize_writeBlock (s : State) (sp sp' : Space) (i : Nat) (v : Block) :
    (s.writeBlock sp i v).spaceSize sp' = s.spaceSize sp' := by
  cases sp' <;> simp [State.spaceSize]

theorem State.writeBlocks_memoriesOk {s : State} (sp : Space) {i : Nat} (vs : List Block) (h : s.memoriesOk)
    (hi : blockAddress (i + vs.length) ≤ s.spaceSize sp) : (s.writeBlocks sp i vs).memoriesOk := by
  induction vs generalizing s i with
  | nil => exact h
  | cons v rest ih =>
    have hi' : 16 * (i + (rest.length + 1)) ≤ s.spaceSize sp := hi
    refine ih (State.writeBlock_memoriesOk sp v h (by simp only [blockAddress]; omega)) ?_
    rw [State.spaceSize_writeBlock]
    simp only [blockAddress]
    omega

theorem State.leaveUnspecified_memoriesOk {s : State} (sp : Space) {a : Nat} (n : Nat) (h : s.memoriesOk)
    (ha : a + n ≤ s.spaceSize sp) : (s.leaveUnspecified sp a n).memoriesOk := by
  induction n generalizing s a with
  | zero => exact h
  | succ n ih =>
    refine ih (State.writeByte_memoriesOk sp _ h (by omega)) ?_
    rw [State.spaceSize_writeByte]
    omega

/-- An abort leaves every byte outside its range as it was (R261). -/
theorem State.readByte_leaveUnspecified_outside (s : State) (sp sp' : Space) (a n b : Nat)
    (h : sp' = sp → b < a ∨ a + n ≤ b) :
    (s.leaveUnspecified sp a n).readByte sp' b = s.readByte sp' b := by
  induction n generalizing s a with
  | zero => rfl
  | succ n ih =>
    rw [State.leaveUnspecified, ih, State.readByte_writeByte, if_neg]
    · rintro ⟨hs, rfl⟩
      have := h hs
      omega
    · intro hs
      have := h hs
      omega

/-- The memories of the machine right after reset are in canonical form. -/
theorem State.reset_memoriesOk : State.reset.memoriesOk := by
  intro sp
  cases sp <;> exact ⟨List.Pairwise.nil, fun c hc => by cases hc⟩

end Sys2Proof.Machine
end

