-- ==== Sys2Proof/Laws/Network.lean ====
section
/-! SUPPORT. The shapes of the round network and the key schedule: how many lanes and keys, and each lane alone (R134, R150
to R152). -/

namespace Sys2Proof.Machine

@[simp] theorem length_roundN (lanes : List Block) (rk : Block) : (roundN lanes rk).length = lanes.length := by
  simp [roundN]

@[simp] theorem length_net (lanes keys : List Block) : (net lanes keys).length = lanes.length := by
  induction keys generalizing lanes with
  | nil => rfl
  | cons k rest ih => simpa [net] using ih (roundN lanes k)

/-- The network works on each lane alone (R152). -/
theorem net_eq_map (lanes keys : List Block) : net lanes keys = lanes.map (netLane keys) := by
  induction keys generalizing lanes with
  | nil => exact (List.map_id lanes).symm
  | cons k rest ih =>
    rw [show net lanes (k :: rest) = net (roundN lanes k) rest from rfl, ih, roundN, List.map_map]
    rfl

/-- Ten round keys (R134). -/
@[simp] theorem length_keyExpand (lo hi : Block) : (keyExpand lo hi).length = 10 := rfl

end Sys2Proof.Machine
end

