-- ==== Sys2Proof/Laws/PerInstr.lean ====
section
/-! SUPPORT. What holds of the word of every command, one lemma per command. -/

namespace Sys2Proof.Laws.ReservedByteZero

/-- The reserved field of a command's word is zero (R80), whatever its operands. -/
def Statement (i : Instr) : Prop := rsvField (encode i) = 0#8

/-- The reserved field of every assembled word is zero. -/
theorem commandWord_rsv (op : Byte) (a b : BitVec 4) (imm : Byte) : rsvField (commandWord op a b imm) = 0#8 := by
  apply BitVec.eq_of_getLsbD_eq
  intro i hi
  simp only [rsvField, commandWord, BitVec.getLsbD_append, BitVec.getLsbD_extractLsb']
  simp [hi, show ¬ 24 + i < 8 by omega, show ¬ 24 + i - 8 < 4 by omega, show ¬ 24 + i - 8 - 4 < 4 by omega,
    show ¬ 24 + i - 8 - 4 - 4 < 8 by omega]

theorem ldx (d s : BitVec 4) : Statement (.ldx d s) := commandWord_rsv _ _ _ _
theorem stx (d s : BitVec 4) : Statement (.stx d s) := commandWord_rsv _ _ _ _
theorem ldk (k s : BitVec 4) : Statement (.ldk k s) := commandWord_rsv _ _ _ _
theorem stk (k s : BitVec 4) : Statement (.stk k s) := commandWord_rsv _ _ _ _
theorem aesrnd (d k : BitVec 4) : Statement (.aesrnd d k) := commandWord_rsv _ _ _ _
theorem kassist (d : BitVec 4) (rcon : Byte) : Statement (.kassist d rcon) := commandWord_rsv _ _ _ _
theorem kexp : Statement .kexp := commandWord_rsv _ _ _ _
theorem round4 (d k : BitVec 4) : Statement (.round4 d k) := commandWord_rsv _ _ _ _
theorem round8 (k : BitVec 4) : Statement (.round8 k) := commandWord_rsv _ _ _ _
theorem net4 (d : BitVec 4) : Statement (.net4 d) := commandWord_rsv _ _ _ _
theorem net8 : Statement .net8 := commandWord_rsv _ _ _ _
theorem explode : Statement .explode := commandWord_rsv _ _ _ _
theorem implode : Statement .implode := commandWord_rsv _ _ _ _

end Sys2Proof.Laws.ReservedByteZero
end

