-- ==== Sys2Proof/Laws/Registers.lean ====
section
/-! SUPPORT. The two register files: a read after a write gives the value written, and every other register is left alone
(R20 to R25). -/

namespace Sys2Proof.Machine

/-- Lane `j` after a write of lane `d` that exists. -/
theorem State.lane_setLane (s : State) {d : Nat} (j : Nat) (v : Block) (hd : d < 8) :
    (s.setLane d v).lane j = if j = d then some v else s.lane j := by
  simp only [State.lane, State.setLane, Vector.getElem?_setIfInBounds]
  by_cases h : j = d
  · subst h
    simp [hd]
  · simp [h, Ne.symm h]

/-- Round key `j` after a write of round key `k` that exists. -/
theorem State.key_setKey (s : State) {k : Nat} (j : Nat) (v : Block) (hk : k < 10) :
    (s.setKey k v).key j = if j = k then some v else s.key j := by
  simp only [State.key, State.setKey, Vector.getElem?_setIfInBounds]
  by_cases h : j = k
  · subst h
    simp [hk]
  · simp [h, Ne.symm h]

/-- A lane is read through the lane file alone. -/
theorem State.lane_congr {s t : State} (h : t.x = s.x) (j : Nat) : t.lane j = s.lane j := by simp [State.lane, h]

/-- A round key is read through the round-key file alone. -/
theorem State.key_congr {s t : State} (h : t.k = s.k) (j : Nat) : t.key j = s.key j := by simp [State.key, h]

/-- A lane outside consecutive written lanes is as before. -/
theorem State.lane_setLanes_outside (s : State) {d : Nat} (j : Nat) (vs : List Block) (hd : d + vs.length ≤ 8)
    (h : j < d ∨ d + vs.length ≤ j) : (s.setLanes d vs).lane j = s.lane j := by
  induction vs generalizing s d with
  | nil => rfl
  | cons v rest ih =>
    simp only [List.length_cons] at hd h
    rw [State.setLanes, ih _ (by omega) (by omega), State.lane_setLane _ _ _ (by omega), if_neg (by omega)]

/-- Each of consecutive written lanes holds its value. -/
theorem State.lane_setLanes_inside (s : State) {d : Nat} (j : Nat) (vs : List Block) (hd : d + vs.length ≤ 8)
    (h : j < vs.length) : (s.setLanes d vs).lane (d + j) = some vs[j] := by
  induction vs generalizing s d j with
  | nil => simp at h
  | cons v rest ih =>
    simp only [List.length_cons] at hd h
    rw [State.setLanes]
    cases j with
    | zero =>
      rw [State.lane_setLanes_outside _ _ _ (by omega) (by omega), State.lane_setLane _ _ _ (by omega)]
      simp
    | succ j =>
      have := ih (s.setLane d v) (d := d + 1) j (by omega) (by omega)
      rw [show d + 1 + j = d + (j + 1) by omega] at this
      simpa using this

/-- A round key outside consecutive written round keys is as before. -/
theorem State.key_setKeys_outside (s : State) {k : Nat} (j : Nat) (vs : List Block) (hk : k + vs.length ≤ 10)
    (h : j < k ∨ k + vs.length ≤ j) : (s.setKeys k vs).key j = s.key j := by
  induction vs generalizing s k with
  | nil => rfl
  | cons v rest ih =>
    simp only [List.length_cons] at hk h
    rw [State.setKeys, ih _ (by omega) (by omega), State.key_setKey _ _ _ (by omega), if_neg (by omega)]

/-- Each of consecutive written round keys holds its value. -/
theorem State.key_setKeys_inside (s : State) {k : Nat} (j : Nat) (vs : List Block) (hk : k + vs.length ≤ 10)
    (h : j < vs.length) : (s.setKeys k vs).key (k + j) = some vs[j] := by
  induction vs generalizing s k j with
  | nil => simp at h
  | cons v rest ih =>
    simp only [List.length_cons] at hk h
    rw [State.setKeys]
    cases j with
    | zero =>
      rw [State.key_setKeys_outside _ _ _ (by omega) (by omega), State.key_setKey _ _ _ (by omega)]
      simp
    | succ j =>
      have := ih (s.setKey k v) (k := k + 1) j (by omega) (by omega)
      rw [show k + 1 + j = k + (j + 1) by omega] at this
      simpa using this

/-- A destroyed lane holds no value (R25). -/
@[simp] theorem State.lane_destroyRegisters (s : State) (j : Nat) : s.destroyRegisters.lane j = none := by
  simp only [State.lane, State.destroyRegisters, Vector.getElem?_replicate]
  split <;> rfl

/-- A destroyed round key holds no value (R25). -/
@[simp] theorem State.key_destroyRegisters (s : State) (j : Nat) : s.destroyRegisters.key j = none := by
  simp only [State.key, State.destroyRegisters, Vector.getElem?_replicate]
  split <;> rfl

/-- The data of a lane that holds a value. -/
theorem State.laneData_of_some {s : State} {d : Nat} {v : Block} (h : s.lane d = some v) : s.laneData d = v := by
  simp [State.laneData, h]

/-- The data of a round key that holds a value. -/
theorem State.keyData_of_some {s : State} {k : Nat} {v : Block} (h : s.key k = some v) : s.keyData k = v := by
  simp [State.keyData, h]

/-! ### Lane sets (R150, R151) -/

@[simp] theorem length_indices (first n : Nat) : (indices first n).length = n := by simp [indices]

theorem mem_indices {first n j : Nat} : j ∈ indices first n ↔ first ≤ j ∧ j < first + n := by
  simp only [indices, List.mem_map, List.mem_range]
  exact ⟨fun ⟨i, hi, h⟩ => by omega, fun h => ⟨j - first, by omega, by omega⟩⟩

@[simp] theorem State.length_lanes (s : State) (d n : Nat) : (s.lanes d n).length = n := by simp [State.lanes]

@[simp] theorem State.length_readBlocks (s : State) (sp : Space) (i n : Nat) : (s.readBlocks sp i n).length = n := by
  simp [State.readBlocks]

end Sys2Proof.Machine
end

