-- ==== Sys2Proof/Tests/Slice0.lean ====
section
/-! SUPPORT. Small tests. Expected values come from the spec: the words from the field table of R80 and the examples of R90,
the blocks from the vectors of `95_test_vectors.md` (named in each comment), the fault words from R32 and R234. The last
part shows, for each statement that has hypotheses, a state and operands that meet them together. -/

set_option Elab.async false

namespace Sys2Proof.Tests

open Sys2Proof Sys2Proof.Machine

/-! ### WellFormed: one ill-formed term for each check -/

theorem test_wf_refuses_lane_8 : (Instr.ldx 8#4 0#4).wellFormed = false := by decide
theorem test_wf_refuses_state_block_12 : (Instr.stx 0#4 12#4).wellFormed = false := by decide
theorem test_wf_refuses_key_10_as_a : (Instr.ldk 10#4 0#4).wellFormed = false := by decide
theorem test_wf_refuses_key_10_as_b : (Instr.aesrnd 0#4 10#4).wellFormed = false := by decide
theorem test_wf_refuses_group_base_1 : (Instr.net4 1#4).wellFormed = false := by decide
theorem test_wf_refuses_group_base_8 : (Instr.round4 8#4 0#4).wellFormed = false := by decide
theorem test_wf_takes_the_largest : (Instr.ldx 7#4 11#4).wellFormed = true ∧ (Instr.stk 9#4 11#4).wellFormed = true ∧
    (Instr.round4 4#4 9#4).wellFormed = true := by decide

/-! ### Decoding: each command's word, bit by bit (rsv, imm, b, a, op from the left, R80) -/

theorem test_decode_ldx : decode 0b00000000000000000101001100000001#32 = .ok (.ldx 3#4 5#4) := by rfl
theorem test_decode_stx : decode 0b00000000000000000100000000000010#32 = .ok (.stx 0#4 4#4) := by rfl
theorem test_decode_ldk : decode 0b00000000000000001011100100000011#32 = .ok (.ldk 9#4 11#4) := by rfl
theorem test_decode_stk : decode 0b00000000000000000100001000000100#32 = .ok (.stk 2#4 4#4) := by rfl
theorem test_decode_aesrnd : decode 0b00000000000000001001001000010000#32 = .ok (.aesrnd 2#4 9#4) := by rfl
theorem test_decode_kassist : decode 0b00000000111111110000011100010001#32 = .ok (.kassist 7#4 0xFF#8) := by rfl
theorem test_decode_kexp : decode 0b00000000000000000000000000100000#32 = .ok .kexp := by rfl
theorem test_decode_round4 : decode 0b00000000000000000011010000110000#32 = .ok (.round4 4#4 3#4) := by rfl
theorem test_decode_round8 : decode 0b00000000000000000011000000110001#32 = .ok (.round8 3#4) := by rfl
theorem test_decode_net4 : decode 0b00000000000000000000010000110010#32 = .ok (.net4 4#4) := by rfl
theorem test_decode_net8 : decode 0b00000000000000000000000000110011#32 = .ok .net8 := by rfl
theorem test_decode_explode : decode 0b00000000000000000000000001000000#32 = .ok .explode := by rfl
theorem test_decode_implode : decode 0b00000000000000000000000001000001#32 = .ok .implode := by rfl

/-- Section 9 of the vectors: a lane of 8, a key of 10, unassigned opcodes, a reserved bit. -/
theorem test_decode_refuses : decode 0x00000801#32 = .error .noSuchCommand ∧ decode 0x00000A03#32 = .error .noSuchCommand ∧
    decode 0x00000042#32 = .error .noSuchCommand ∧ decode 0x000000FF#32 = .error .noSuchCommand ∧
    decode 0x01000001#32 = .error .reservedBits := ⟨rfl, rfl, rfl, rfl, rfl⟩

theorem test_table_word_reads_low_bits : decodeTableWord 32 0x5301 = some (.ldx 3#4 5#4) := by rfl

/-! ### The pure functions -/

/-- Vector A7: the published example of the hardware round. -/
theorem test_round_a7 : encryptRound (memoryOrder 0x5d47535d726f74636556747365545b7b) (memoryOrder 0x5d6e6f726575475b2979616853286948) =
    memoryOrder 0x95e5d7de584b108bc5a3db9f2f1c31a8 := by decide

/-- Vector B6: the published example of the hardware assist. -/
theorem test_assist_b6 : keyScheduleAssist (memoryOrder 0x2b7e151628aed2a6abf7158809cf4f3c) 0x01#8 =
    memoryOrder 0x34e4b524e5b52434018a84eb8b84eb01 := by decide

/-- Section 3: `gmul(0x57, 0x83)` and `gmul(0x57, 0x13)`. -/
theorem test_gmul : gmul 0x57#8 0x83#8 = 0xC1#8 ∧ gmul 0x57#8 0x13#8 = 0xFE#8 := by decide

/-- Section 3: a `MixColumns` example with four different columns. -/
theorem test_mix_columns : mixColumns (memoryOrder 0xdb135345f20a225c01010101c6c6c6c6) =
    memoryOrder 0x8e4da1bc9fdc589d01010101c6c6c6c6 := by decide

/-- Section 3: `ShiftRows(seq)`. -/
theorem test_shift_rows : shiftRows (memoryOrder 0x000102030405060708090a0b0c0d0e0f) =
    memoryOrder 0x00050a0f04090e03080d02070c01060b := by decide

/-- Vector K1 (the FIPS-197 key): the last round key. -/
theorem test_key_expand_k1 : (keyExpand (memoryOrder 0x603deb1015ca71be2b73aef0857d7781)
    (memoryOrder 0x1f352c073b6108d72d9810a30914dff4))[9]? = some (memoryOrder 0xc814e20476a9fb8a5025c02d59c58239) := by
  decide +kernel

/-- The reference recurrence on the same key. -/
theorem test_recurrence_k1 : fipsKey (memoryOrder 0x603deb1015ca71be2b73aef0857d7781)
    (memoryOrder 0x1f352c073b6108d72d9810a30914dff4) 9 = memoryOrder 0xc814e20476a9fb8a5025c02d59c58239 := by
  decide +kernel

/-! ### One command on a small state -/

/-- `STATE` = bytes 00..bf, `MEM = 128 * windows`, everything else as after reset (section 7 of the vectors). -/
def bytesState (windowsPred : Fin 536870911) : State :=
  { State.powerUp ⟨windowsPred⟩ with stateMem := (List.range 192).map fun a => (a, BitVec.ofNat 8 a) }

/-- `bytesState` with `X[j] = State[4 + j]` for all lanes and `K[j] = State[j]` for all keys. -/
def loadedState : State :=
  { bytesState 0 with
    x := Vector.ofFn fun j => some ((bytesState 0).readBlock .state (4 + j.val))
    k := Vector.ofFn fun j => some ((bytesState 0).readBlock .state j.val) }

/-- The state a command answers, the start state where it stops. -/
def after (s : State) (i : Instr) : State :=
  match exec i s with
  | .next t => t
  | _ => s

/-- The state a step answers. -/
def afterStep (s : State) : State :=
  match step s with
  | .next t => t
  | _ => s

/-- Section 9: `LDX x3, s5`. -/
theorem test_ldx : (after (bytesState 0) (.ldx 3#4 5#4)).lane 3 = some (memoryOrder 0x505152535455565758595a5b5c5d5e5f) := by
  decide +kernel

/-- Section 9: `STX x0, s0` after reset is `NO_VALUE`. -/
theorem test_stx_empty : statusWord (after (bytesState 0) (.stx 0#4 0#4)).status = 0x22#32 ∧
    (after (bytesState 0) (.stx 0#4 0#4)).faultCmd = 0x00000002#32 := by decide +kernel

/-- R211: the stored block reads back; its neighbour keeps its bytes. -/
theorem test_stx : (after loadedState (.stx 3#4 0#4)).readBlock .state 0 = memoryOrder 0x707172737475767778797a7b7c7d7e7f ∧
    (after loadedState (.stx 3#4 0#4)).readBlock .state 1 = memoryOrder 0x101112131415161718191a1b1c1d1e1f := by decide +kernel

/-- Section 9: `LDK k9, s11`. -/
theorem test_ldk : (after (bytesState 0) (.ldk 9#4 11#4)).key 9 = some (memoryOrder 0xb0b1b2b3b4b5b6b7b8b9babbbcbdbebf) := by
  decide +kernel

/-- Section 9: `K[1]` of `LDK k1, s1` stored to block 4. -/
theorem test_stk : (after loadedState (.stk 1#4 4#4)).readBlock .state 4 = memoryOrder 0x101112131415161718191a1b1c1d1e1f := by
  decide +kernel

/-- Vector A4 as a command: `K[0]` and lane 0 both hold `seq`. -/
theorem test_aesrnd : (after (after loadedState (.ldx 0#4 0#4)) (.aesrnd 0#4 0#4)).lane 0 =
    some (memoryOrder 0x6a6b5e4628683556b8d0576a2b912f53) := by decide +kernel

/-- Vector B4 as a command, on lane 2. -/
theorem test_kassist : (after (after loadedState (.ldx 2#4 0#4)) (.kassist 2#4 0x01#8)).lane 2 =
    some (memoryOrder 0xf26b6fc56a6fc5f2fed7ab76d6ab76fe) := by decide +kernel

/-- Vector K2: `K[2]` and `K[9]` from the seed in State blocks 0 and 1. -/
theorem test_kexp : (after loadedState .kexp).key 2 = some (memoryOrder 0xa573c29fa176c498a97fce93a572c09c) ∧
    (after loadedState .kexp).key 9 = some (memoryOrder 0x45f5a66017b2d387300d4d33640a820a) := by decide +kernel

/-- Vector R8-1, group B, by `ROUND4 x4, k0` (`K[0] = seq`); lane 3 is not in the group. -/
theorem test_round4 : (after loadedState (.round4 4#4 0#4)).lane 5 = some (memoryOrder 0xdd3d559cbe21a327a1aa0fdbb775564f) ∧
    (after loadedState (.round4 4#4 0#4)).lane 3 = loadedState.lane 3 := by decide +kernel

/-- Vector R8-1: lanes 0 and 7. -/
theorem test_round8 : (after loadedState (.round8 0#4)).lane 0 = some (memoryOrder 0xf23145b34a03560a1e5218692964ded0) ∧
    (after loadedState (.round8 0#4)).lane 7 = some (memoryOrder 0x4d58db003ca02da9c06192bb21db1ae9) := by decide +kernel

/-- Vector N-1, lane 5 (its block is State block 5, in lane 1), by `NET4 x0` under the keys K2. -/
theorem test_net4 : (after (after loadedState .kexp) (.net4 0#4)).lane 1 =
    some (memoryOrder 0x938bc7843afdde8c386e0acdf9595118) := by decide +kernel

/-- Program P5: lane 7 after `NET8`. -/
theorem test_net8 : (after (after loadedState .kexp) .net8).lane 7 =
    some (memoryOrder 0x3ca19618ef3d55daed4784dd98197e3c) := by decide +kernel

/-- Vector E2 (`MEM = 256`): a block of each group and each window. -/
theorem test_explode : (after (bytesState 1) .explode).readBlock .pad 3 = memoryOrder 0x1eda9a0c8bdd06ca3ccf3b9632b33e5a ∧
    (after (bytesState 1) .explode).readBlock .pad 12 = memoryOrder 0x303835f3918f99cff09ea066687b639c := by decide +kernel

/-- Section 7: `EXPLODE` leaves no register with a value. -/
theorem test_explode_destroys : (after loadedState .explode).lane 0 = none ∧ (after loadedState .explode).key 9 = none := by
  decide +kernel

/-- Vector I2 (`MEM = 256`, `PAD` as left by E2): the first and the last folded block. -/
theorem test_implode : (after (after (bytesState 1) .explode) .implode).readBlock .state 4 =
      memoryOrder 0xab454c85527305bffc5ed742845ab80a ∧
    (after (after (bytesState 1) .explode) .implode).readBlock .state 11 =
      memoryOrder 0x9c83733a77185ca1df78db725fd25a23 := by decide +kernel

/-! ### The port -/

/-- R42, section 9: `MEMBLKS` after reset in the reference configuration. -/
theorem test_memblks_after_reset : ctlValue State.reset 0x0C 32 = 0x00020000#32 := by decide

/-- R36: a 16-bit access, an offset with no register. -/
theorem test_ctl_reads_zero : ctlValue State.reset 0x0C 16 = 0#32 ∧ ctlValue State.reset 0x14 32 = 0#32 := by decide

/-- Section 9: writing 0xFFFFFFFF to `CFG` and reading it gives 1. -/
theorem test_cfg : ctlValue (afterStep { State.reset with pending := [.ctlWrite 0x08 32 0xFFFFFFFF#32] }) 0x08 32 = 1#32 := by
  decide

/-- R91: the first command after reset, as the host places it: `KEXP` finds its sources empty (section 5). -/
theorem test_first_word_after_reset : statusWord (afterStep (State.reset.withFetchWord 32 0x20)).status = 0x22#32 ∧
    (afterStep (State.reset.withFetchWord 32 0x20)).faultCmd = 0x00000020#32 := by decide

/-- R235: a word after a fault is discarded. -/
theorem test_halted_discards : (afterStep ((afterStep (State.reset.withFetchWord 32 0x00)).withFetchWord 32 0x20)).faultCmd =
    0x00000000#32 := by decide

/-- R32: `STATUS` reads busy after a posted `EXPLODE`. -/
theorem test_posted_is_busy : statusWord (afterStep { State.reset with pending := [.ctlWrite 0x00 32 0x40#32] }).status = 1#32 := by
  decide

/-- A host write keeps the list of cells in its canonical form, and a byte written twice has one cell. -/
theorem test_memory_write : Memory.write (Memory.write (Memory.write [] 5 1#8) 3 2#8) 5 9#8 = [(3, 2#8), (5, 9#8)] := by decide

/-! ### The hypotheses of the statements can be met -/

/-- `bytesState` with the host's actions still to come. -/
def withActions (s : State) (l : List HostAction) : State := { s with pending := l }

/-- An engine in the middle of a posted command: the state after acceptance. -/
def acceptedState (i : Instr) : State := acceptCommand i loadedState

/-- An engine halted by an illegal word. -/
def haltedState : State := raiseFault .illegalCmd 0#32 (bytesState 0)

theorem witness_DecodeOfEncode : (Instr.kassist 7#4 0xFF#8).wellFormed = true := by decide

theorem witness_MixColumnsOfEqualBytes : ∀ r, r < 4 → byteOf (memoryOrder 0x000102030405060708090a0bc6c6c6c6) (4 * 3 + r) = 0xC6#8 := by
  decide

theorem witness_RoundKeyIndex : (9 : Nat) < 10 := by decide

theorem witness_EncodeOfDecode : decode 0x0000B904#32 = .ok (.stk 9#4 11#4) := by rfl

theorem witness_OpcodeRowsSelectExactlyTheDecodedWords : decode 0x0000B904#32 = .ok (.stk 9#4 11#4) ∧
    (∃ r ∈ opcodeRows, r.selects 0x0000B904#32) :=
  ⟨rfl, ⟨"STK", 0x00000004#32, 0xFFFF00FF#32, 9#4, 11#4⟩, by decide, by unfold OpcodeRow.selects; decide⟩

theorem witness_StepRunsTheCalledCommand : (withActions loadedState [.call 0x20#32]).pending = .call 0x20#32 :: [] ∧
    (withActions loadedState [.call 0x20#32]).ready ∧ decode 0x20#32 = .ok .kexp := ⟨rfl, ⟨rfl, rfl⟩, rfl⟩

theorem witness_PostedCommandIsAccepted :
    (withActions loadedState [.ctlWrite 0 32 0x33#32]).pending = .ctlWrite 0x00 32 0x33#32 :: [] ∧
    (withActions loadedState [.ctlWrite 0 32 0x33#32]).ready ∧ decode 0x33#32 = .ok .net8 ∧
    sourcesHeld .net8 (withActions loadedState [.ctlWrite 0 32 0x33#32]) = true :=
  ⟨rfl, ⟨rfl, rfl⟩, rfl, by decide +kernel⟩

theorem witness_PostedCommandIsAccepted_explode :
    (withActions loadedState [.ctlWrite 0 32 0x40#32]).ready ∧ decode 0x40#32 = .ok .explode ∧
    sourcesHeld .explode (withActions loadedState [.ctlWrite 0 32 0x40#32]) = true := ⟨⟨rfl, rfl⟩, rfl, rfl⟩

theorem witness_IllegalWordRaisesIllegalCmd :
    (withActions loadedState [.call 0x132#32]).pending = .call 0x132#32 :: [] ∧
    (withActions loadedState [.call 0x132#32]).ready ∧ decode 0x132#32 = .error .noSuchCommand := ⟨rfl, ⟨rfl, rfl⟩, rfl⟩

theorem witness_IllegalWordPosted :
    (withActions loadedState [.ctlWrite 0 32 0x01000040#32]).pending = .ctlWrite 0x00 32 0x01000040#32 :: [] ∧
    (withActions loadedState [.ctlWrite 0 32 0x01000040#32]).ready ∧
    decode 0x01000040#32 = .error .reservedBits := ⟨rfl, ⟨rfl, rfl⟩, rfl⟩

theorem witness_EmptySourceRaisesNoValue : (Instr.stx 7#4 0#4).wellFormed = true ∧
    sourceEmpty (bytesState 0) (.stx 7#4 0#4) ∧ (Instr.stk 9#4 0#4).wellFormed = true ∧
    sourceEmpty (bytesState 0) (.stk 9#4 0#4) := ⟨rfl, rfl, rfl, rfl⟩

/-- All lanes hold values; of the keys only the last holds none. -/
theorem witness_EmptySourceRaisesNoValue_posted :
    (withActions { loadedState with k := loadedState.k.set 9 none } [.ctlWrite 0 32 0x33#32]).ready ∧
    decode 0x33#32 = .ok .net8 ∧
    sourceEmpty (withActions { loadedState with k := loadedState.k.set 9 none } [.ctlWrite 0 32 0x33#32]) .net8 :=
  ⟨⟨rfl, rfl⟩, rfl, .inr ⟨9, by decide, rfl⟩⟩

theorem witness_EmptySourceRaisesNoValue_called :
    (withActions (bytesState 0) [.call 0x20#32]).ready ∧ decode 0x20#32 = .ok .kexp ∧
    sourceEmpty (withActions (bytesState 0) [.call 0x20#32]) .kexp := ⟨⟨rfl, rfl⟩, rfl, .inl rfl⟩

theorem witness_OperandOutOfRange : (Instr.net4 8#4).wellFormed = false := by decide

theorem witness_FaultWritesOnlyStatusAndFaultcmd :
    (withActions (bytesState 0) [.call 0x20#32]).ready ∧
    step (withActions (bytesState 0) [.call 0x20#32]) = .next (afterStep (withActions (bytesState 0) [.call 0x20#32])) ∧
    (afterStep (withActions (bytesState 0) [.call 0x20#32])).status.fault = true := ⟨⟨rfl, rfl⟩, rfl, rfl⟩

theorem witness_HaltedEngineDiscardsCommands :
    (withActions haltedState [.call 0x40#32]).status.fault = true ∧
    (withActions haltedState [.call 0x40#32]).status.busy = false := ⟨rfl, rfl⟩

theorem witness_bytesState_memoryLegal : (bytesState 0).memoryLegal := by decide +kernel

theorem witness_OnlyResetLeavesTheHalt : haltedState.Inv ∧ haltedState.status.fault = true ∧
    haltedState.pending.head? ≠ some .reset ∧ step haltedState = .next haltedState :=
  ⟨⟨witness_bytesState_memoryLegal, by decide, ⟨rfl, rfl⟩⟩, rfl, by decide, rfl⟩

theorem witness_LoadLane : isLane 7#4 = true ∧ isStateBlock 11#4 = true := by decide

theorem witness_StoreLane : isLane 7#4 = true ∧ isStateBlock 11#4 = true ∧
    loadedState.lane (7#4).toNat = some (memoryOrder 0xb0b1b2b3b4b5b6b7b8b9babbbcbdbebf) := by decide +kernel

theorem witness_LoadKey : isKey 9#4 = true ∧ isStateBlock 0#4 = true := by decide

theorem witness_StoreKey : isKey 9#4 = true ∧ isStateBlock 11#4 = true ∧
    loadedState.key (9#4).toNat = some (memoryOrder 0x909192939495969798999a9b9c9d9e9f) := by decide +kernel

theorem witness_SingleRound : isLane 7#4 = true ∧ isKey 9#4 = true ∧
    loadedState.lane (7#4).toNat = some (memoryOrder 0xb0b1b2b3b4b5b6b7b8b9babbbcbdbebf) ∧
    loadedState.key (9#4).toNat = some (memoryOrder 0x909192939495969798999a9b9c9d9e9f) := by decide +kernel

theorem witness_KeyExpand : loadedState.key 0 = some (memoryOrder 0x000102030405060708090a0b0c0d0e0f) ∧
    loadedState.key 1 = some (memoryOrder 0x101112131415161718191a1b1c1d1e1f) := by decide +kernel

theorem witness_KeygenExpandsTheStateSeed : (10#4 : BitVec 4) ≤ 10#4 := by decide

theorem witness_FourLaneRound : isGroupBase 4#4 = true ∧ isKey 9#4 = true ∧
    (∀ j, j < 4 → loadedState.lane ((4#4).toNat + j) = some (loadedState.laneData (4 + j))) ∧
    loadedState.key (9#4).toNat = some (loadedState.keyData 9) := by decide +kernel

theorem witness_EightLaneRound : isKey 9#4 = true ∧ (∀ j, j < 8 → loadedState.lane j = some (loadedState.laneData j)) ∧
    loadedState.key (9#4).toNat = some (loadedState.keyData 9) := by decide +kernel

theorem witness_FourLaneNetwork : isGroupBase 0#4 = true ∧
    (∀ j, j < 4 → loadedState.lane ((0#4).toNat + j) = some (loadedState.laneData j)) ∧
    loadedState.keys.length = 10 ∧ (∀ r, r < 10 → loadedState.key r = loadedState.keys[r]?) := by decide +kernel

theorem witness_EightLaneNetwork : (∀ j, j < 8 → loadedState.lane j = some (loadedState.laneData j)) ∧
    loadedState.keys.length = 10 ∧ (∀ r, r < 10 → loadedState.key r = loadedState.keys[r]?) := by decide +kernel

theorem witness_WideCommands : sourcesHeld .net8 loadedState = true ∧ isKey 9#4 = true ∧
    sourcesHeld (.round8 9#4) loadedState = true := by decide +kernel

theorem witness_NarrowCommands : isGroupBase 4#4 = true ∧ isKey 9#4 = true ∧
    sourcesHeld (.net4 4#4) loadedState = true ∧ sourcesHeld (.round4 4#4 9#4) loadedState = true ∧
    [7#4, 5#4, 4#4, 6#4].Perm [4#4, 4#4 + 1#4, 4#4 + 2#4, 4#4 + 3#4] := by decide +kernel

/-- `loadedState` with one byte of `STATE` changed. -/
def changedState (a : Nat) : State :=
  { loadedState with stateMem := loadedState.stateMem.map fun c => if c.1 = a then (a, 0xFF#8) else c }

/-- The two states differ in State block 2, which `EXPLODE` does not read, and in every register. -/
theorem witness_TopLevelCommandsArePure_explode :
    ∃ s s' t t' : State, s ≠ s' ∧ s.geometry = s'.geometry ∧
      (∀ b, b = 0 ∨ b = 1 ∨ 4 ≤ b ∧ b ≤ 11 → s.readBlock .state b = s'.readBlock .state b) ∧
      exec .explode s = .next t ∧ exec .explode s' = .next t' := by
  have h : ∀ b ∈ [0, 1, 4, 5, 6, 7, 8, 9, 10, 11],
      (bytesState 0).readBlock .state b = (changedState 32).readBlock .state b := by decide +kernel
  refine ⟨bytesState 0, changedState 32, _, _, by decide +kernel, rfl, fun b hb => h b ?_, rfl, rfl⟩
  simp only [List.mem_cons, List.not_mem_nil, or_false]
  omega

/-- The two states differ in State block 0, which `IMPLODE` does not read, and in every register. -/
theorem witness_TopLevelCommandsArePure_implode :
    ∃ s s' t t' : State, s ≠ s' ∧ s.geometry = s'.geometry ∧
      (∀ b, 2 ≤ b ∧ b ≤ 11 → s.readBlock .state b = s'.readBlock .state b) ∧
      (∀ q, q < s.geometry.blocks → s.readBlock .pad q = s'.readBlock .pad q) ∧
      exec .implode s = .next t ∧ exec .implode s' = .next t' := by
  have h : ∀ b ∈ [2, 3, 4, 5, 6, 7, 8, 9, 10, 11],
      (bytesState 0).readBlock .state b = (changedState 0).readBlock .state b := by decide +kernel
  refine ⟨bytesState 0, changedState 0, _, _, by decide +kernel, rfl, fun b hb => h b ?_, fun _ _ => rfl, rfl, rfl⟩
  simp only [List.mem_cons, List.not_mem_nil, or_false]
  omega

/-- The blocks named differ, so the pairs above are no pairs of equal memories. -/
theorem test_changed_blocks : (bytesState 0).readBlock .state 2 ≠ (changedState 32).readBlock .state 2 ∧
    (bytesState 0).readBlock .state 0 ≠ (changedState 0).readBlock .state 0 := by decide +kernel

theorem witness_RowsRunToTheCommand : (bytesState 1).pending = [] ∧ (bytesState 1).ready := ⟨rfl, ⟨rfl, rfl⟩⟩

theorem witness_PostedCommandEndsAsTheCall : loadedState.pending = [] ∧ loadedState.ready ∧
    loadedState.seq = restingSequencer ∧ decode 0x0000B402#32 = .ok (.stx 4#4 11#4) ∧
    sourcesHeld (.stx 4#4 11#4) loadedState = true := ⟨rfl, ⟨rfl, rfl⟩, rfl, rfl, by decide +kernel⟩

theorem witness_PostedCommandEndsAsTheCall_implode : decode 0x00000041#32 = .ok .implode ∧
    sourcesHeld .implode loadedState = true := ⟨rfl, rfl⟩

theorem witness_EveryRunningCommandTerminates_implode : (acceptedState .implode).Inv ∧
    (acceptedState .implode).pending = [] ∧ (acceptedState .implode).status.busy = true := by
  refine ⟨⟨witness_bytesState_memoryLegal, by decide, rfl, rfl, ?_⟩, rfl, rfl⟩
  exact ⟨rfl, by decide, by decide, by decide, by decide +kernel, by decide +kernel⟩

theorem witness_EveryRunningCommandTerminates_component : (acceptedState (.stk 9#4 11#4)).Inv ∧
    (acceptedState (.stk 9#4 11#4)).pending = [] ∧ (acceptedState (.stk 9#4 11#4)).status.busy = true :=
  ⟨⟨witness_bytesState_memoryLegal, by decide, rfl, rfl, rfl, by decide +kernel⟩, rfl, rfl⟩

theorem witness_EveryRunningCommandTerminates : (acceptedState .explode).Inv ∧ (acceptedState .explode).pending = [] ∧
    (acceptedState .explode).status.busy = true := by
  refine ⟨⟨witness_bytesState_memoryLegal, by decide, rfl, rfl, ?_⟩, rfl, rfl⟩
  exact ⟨rfl, by decide, by decide, by decide, by decide +kernel, by decide +kernel⟩

theorem witness_BusyWritesAreHeldOff : (withActions (acceptedState .implode) [.call 0x20#32]).status.busy = true ∧
    (withActions (acceptedState .implode) [.call 0x20#32]).pending = .call 0x20#32 :: [] := ⟨rfl, rfl⟩

theorem witness_ControlReads : (withActions (bytesState 0) [.ctlRead 0x10 32]).pending = .ctlRead 0x10 32 :: [] := rfl

/-- R30 at each offset, and at the first offset past the registers (`MEM = 128`, halted by the word 0). -/
theorem test_ctl_reads_each_offset : ctlValue haltedState 0x00 32 = 0#32 ∧ ctlValue haltedState 0x04 32 = 0x12#32 ∧
    ctlValue haltedState 0x08 32 = 0#32 ∧ ctlValue haltedState 0x0C 32 = 8#32 ∧ ctlValue haltedState 0x10 32 = 0#32 ∧
    ctlValue haltedState 0x14 32 = 0#32 ∧ ctlValue haltedState 0x04 8 = 0#32 := by decide +kernel

theorem witness_ControlWrites :
    (withActions haltedState [.ctlWrite 0x08 32 0xFFFFFFFF#32]).status.busy = false ∧
    (withActions haltedState [.ctlWrite 0x04 32 0#32]).pending = .ctlWrite 0x04 32 0#32 :: [] := ⟨rfl, rfl⟩

theorem witness_StatusReadsALegalValue : haltedState.Inv := witness_OnlyResetLeavesTheHalt.1

theorem witness_PrefetchBitHasNoEffect : ∃ t, exec .kexp loadedState = .next t := ⟨_, rfl⟩

theorem witness_PrefetchBitHasNoEffect_microstep : ∃ t, engineStep (acceptedState .explode) = .next t := ⟨_, rfl⟩

/-- The last bytes of each space. -/
theorem witness_HostWritesExactlyItsBytes :
    (withActions (bytesState 0) [.memWrite .state 190 [1#8, 2#8]]).status.busy = false ∧
    190 + [1#8, 2#8].length ≤ (bytesState 0).spaceSize .state ∧ 127 + [1#8].length ≤ (bytesState 0).spaceSize .pad := by decide

theorem witness_HostReadsTheBytes : (withActions (bytesState 0) [.memRead .pad 0 128]).status.busy = false ∧
    0 + 128 ≤ (bytesState 0).spaceSize .pad := by decide

theorem witness_HostMemoryAccessStops_busy :
    (withActions (acceptedState .explode) [.memRead .pad 0 1]).status.busy = true := rfl

theorem witness_HostMemoryAccessStops_range : (withActions (bytesState 0) [.memRead .pad 128 1]).status.busy = false ∧
    (bytesState 0).spaceSize .pad < 128 + 1 := by decide

theorem witness_HostCannotReachTheRegisters :
    ∃ t, step (withActions loadedState [.memWrite .state 0 [7#8]]) = .next t ∧
      (withActions loadedState [.memWrite .state 0 [7#8]]).status.busy = false := ⟨_, rfl, rfl⟩

theorem witness_IdleEngineKeepsItsState : loadedState.pending = [] ∧ loadedState.status.busy = false := ⟨rfl, rfl⟩

theorem witness_ResetGivesTheResetValues : (withActions loadedState [.reset]).pending = .reset :: [] ∧
    (withActions loadedState [.reset]).running = none := ⟨rfl, rfl⟩

theorem witness_AbortLeavesWrittenBlocksUnspecified :
    (withActions (acceptedState (.stx 0#4 11#4)) [.reset]).pending = .reset :: [] ∧
    (withActions (acceptedState (.stx 0#4 11#4)) [.reset]).running = some (.stx 0#4 11#4) := ⟨rfl, rfl⟩

/-- R261: the first and last block each listed command leaves unspecified, and their neighbours (`MEM = 128`). -/
theorem witness_AbortedBlocks : abortedBlock (bytesState 0).geometry .pad 7 .explode ∧
    ¬abortedBlock (bytesState 0).geometry .pad 8 .explode ∧ ¬abortedBlock (bytesState 0).geometry .state 0 .explode ∧
    abortedBlock (bytesState 0).geometry .state 4 .implode ∧ abortedBlock (bytesState 0).geometry .state 11 .implode ∧
    ¬abortedBlock (bytesState 0).geometry .state 3 .implode ∧ ¬abortedBlock (bytesState 0).geometry .state 12 .implode ∧
    abortedBlock (bytesState 0).geometry .state 11 (.stx 0#4 11#4) ∧
    ¬abortedBlock (bytesState 0).geometry .state 10 (.stk 0#4 11#4) := by
  simp only [abortedBlock]; decide

theorem witness_BuildParameterNeverChanges : ∃ t, step (withActions loadedState [.reset]) = .next t := ⟨_, rfl⟩

/-- The smallest legal `MEM`, one that is too small, one that is no multiple of 128, and one too large. -/
theorem test_configurations : Geometry.ofMem 128 = some ⟨⟨0, by decide⟩⟩ ∧ Geometry.ofMem 0 = none ∧
    Geometry.ofMem 192 = none ∧ Geometry.ofMem (16 * 2 ^ 32) = none := by decide

theorem witness_EveryStepKeepsTheInvariant : (acceptedState .explode).Inv ∧
    ∃ t, step (acceptedState .explode) = .next t := ⟨witness_EveryRunningCommandTerminates.1, _, rfl⟩

end Sys2Proof.Tests
end

section
/-! SUPPORT. The configurations: `MEM` names one, which `MEM` are legal, and the sizes derived from it (R10, R11, R35). -/

namespace Sys2Proof

/-- `MEM` identifies a configuration: it has no other parameter (R10). -/
theorem Geometry.eq_of_mem_eq {g g' : Geometry} (h : g.mem = g'.mem) : g = g' := by
  obtain ⟨w⟩ := g
  obtain ⟨w'⟩ := g'
  have hw : w.val = w'.val := by
    simp only [Geometry.mem, Geometry.windows] at h
    omega
  exact congrArg Geometry.mk (Fin.ext hw)

/-- `N = MEM / 16` (R11). -/
theorem Geometry.blocks_eq_mem_div (g : Geometry) : g.blocks = g.mem / 16 := by
  simp only [Geometry.blocks, Geometry.mem]
  omega

theorem Geometry.blocks_mod_eight (g : Geometry) : g.blocks % 8 = 0 :=
  Nat.mul_mod_right 8 g.windows

theorem Geometry.eight_le_blocks (g : Geometry) : 8 ≤ g.blocks :=
  Nat.le_mul_of_pos_right 8 (Nat.succ_pos g.windowsPred)

/-- `MEMBLKS` holds `N` (R35): the largest `N` is the last multiple of 8 below `2^32`. -/
theorem Geometry.blocks_lt (g : Geometry) : g.blocks < 2 ^ 32 := by
  have hw := g.windowsPred.isLt
  simp only [Geometry.blocks, Geometry.windows]
  omega

/-- The widths that hold `N` are those from `IDXW` up, which is what "the least `W`" of R11 says. -/
theorem Geometry.idxWidth_le_iff (g : Geometry) (W : Nat) : g.idxWidth ≤ W ↔ g.blocks < 2 ^ W := by
  have hN : g.blocks ≠ 0 := Nat.ne_of_gt (Nat.lt_of_lt_of_le (by decide) g.eight_le_blocks)
  exact Nat.succ_le_iff.trans (Nat.log2_lt hN)

/-- The check that `Geometry.ofMem` makes of a `MEM` passes for the `MEM` of every configuration. -/
theorem Geometry.mem_legal (g : Geometry) : g.mem % 128 = 0 ∧ 128 ≤ g.mem ∧ g.mem / 16 < 2 ^ 32 :=
  ⟨Nat.mul_mod_right 128 g.windows, Nat.le_mul_of_pos_right 128 (Nat.succ_pos g.windowsPred),
    g.blocks_eq_mem_div ▸ g.blocks_lt⟩

/-- The configuration that `Geometry.ofMem` answers has the `MEM` it was asked for. -/
theorem Geometry.mem_of_ofMem {mem : Nat} {g : Geometry} (h : Geometry.ofMem mem = some g) : g.mem = mem := by
  unfold Geometry.ofMem at h
  split at h
  case isTrue legal =>
    cases h
    simp only [Geometry.mem, Geometry.windows]
    omega
  case isFalse => cases h

/-- `Geometry.ofMem` answers for every legal `MEM` (R10, R35). -/
theorem Geometry.exists_ofMem {mem : Nat} (legal : mem % 128 = 0 ∧ 128 ≤ mem ∧ mem / 16 < 2 ^ 32) :
    ∃ g, Geometry.ofMem mem = some g :=
  ⟨_, dif_pos legal⟩

/-- Every configuration is the one its own `MEM` gives. -/
@[simp] theorem Geometry.ofMem_mem (g : Geometry) : Geometry.ofMem g.mem = some g := by
  obtain ⟨g', h⟩ := Geometry.exists_ofMem g.mem_legal
  rw [h, Geometry.eq_of_mem_eq (Geometry.mem_of_ofMem h)]

/-- So `Geometry.ofMem` is the partial inverse of `Geometry.mem`. -/
theorem Geometry.ofMem_eq_some_iff {mem : Nat} {g : Geometry} : Geometry.ofMem mem = some g ↔ g.mem = mem :=
  ⟨Geometry.mem_of_ofMem, fun h => h ▸ g.ofMem_mem⟩

/-- Settles O56: `ofMem` inverts `mem`, whose values are legal, and `IDXW` is the least width that holds `N`. -/
theorem configurationsAreTheLegalOnes : Obligations.ConfigurationsAreTheLegalOnes := by
  unfold Obligations.ConfigurationsAreTheLegalOnes
  refine ⟨fun mem g => ?legalMem, fun g => ?sizes⟩
  case legalMem =>
    rw [Geometry.ofMem_eq_some_iff]
    constructor
    · rintro rfl
      obtain ⟨hmul, hpos, hfits⟩ := g.mem_legal
      exact ⟨hmul, hpos, hfits, rfl⟩
    · rintro ⟨-, -, -, hmem⟩
      exact hmem
  case sizes =>
    exact ⟨g.blocks_eq_mem_div, g.blocks_mod_eight, g.eight_le_blocks, g.blocks_lt,
      (g.idxWidth_le_iff _).mp le_rfl, fun W => (g.idxWidth_le_iff W).mpr⟩

end Sys2Proof
end

section
/-! SUPPORT. What each command does between acceptance and completion, as one function, and what it leaves alone (R91, R214). -/

namespace Sys2Proof.Machine

/-- The effect of each command between its acceptance and its completion (the rows of R84). -/
def commandEffect : Instr → State → State
  | .ldx d b, t        => t.setLane d.toNat (t.readBlock .state b.toNat)
  | .stx d b, t        => t.writeBlock .state b.toNat (t.laneData d.toNat)
  | .ldk k b, t        => t.setKey k.toNat (t.readBlock .state b.toNat)
  | .stk k b, t        => t.writeBlock .state b.toNat (t.keyData k.toNat)
  | .aesrnd d k, t     => t.setLane d.toNat (encryptRound (t.laneData d.toNat) (t.keyData k.toNat))
  | .kassist d rcon, t => t.setLane d.toNat (keyScheduleAssist (t.laneData d.toNat) rcon)
  | .kexp, t           => t.setKeys 2 ((keyExpand (t.keyData 0) (t.keyData 1)).drop 2)
  | .round4 d k, t     => t.setLanes d.toNat (roundN (t.lanes d.toNat 4) (t.keyData k.toNat))
  | .round8 k, t       => t.setLanes 0 (roundN (t.lanes 0 8) (t.keyData k.toNat))
  | .net4 d, t         => t.setLanes d.toNat (net (t.lanes d.toNat 4) t.keys)
  | .net8, t           => t.setLanes 0 (net (t.lanes 0 8) t.keys)
  | .explode, t        => explodeEffect t
  | .implode, t        => implodeEffect t

/-- Every arm of `exec` issues its command with that effect. -/
theorem exec_eq_runCommand (i : Instr) (s : State) : exec i s = runCommand i s (commandEffect i) := by
  cases i <;> rfl

/-- A legal command whose sources hold values completes with its effect. -/
theorem exec_completes {i : Instr} {s : State} (hwf : i.wellFormed = true) (held : sourcesHeld i s = true) :
    exec i s = .next (completeCommand (commandEffect i (acceptCommand i s))) := by
  rw [exec_eq_runCommand, runCommand_completes _ hwf held]

/-- A command that meets no fault is legal and its sources hold values. -/
theorem commandFault_eq_none_iff {i : Instr} {s : State} :
    commandFault i s = .none ↔ i.wellFormed = true ∧ sourcesHeld i s = true := by
  refine ⟨fun h => ?_, fun ⟨hwf, held⟩ => commandFault_none hwf held⟩
  cases hwf : i.wellFormed with
  | false => simp [commandFault_illegal hwf] at h
  | true =>
    cases held : sourcesHeld i s with
    | false => simp [commandFault_noValue hwf held] at h
    | true => exact ⟨rfl, rfl⟩

/-- What a command that answers `t` has done: it has taken a fault, or its checks passed and it has completed. -/
theorem exec_cases {i : Instr} {s t : State} (h : exec i s = .next t) :
    (∃ c, c ≠ .none ∧ t = raiseFault c (encode i) s) ∨
    i.wellFormed = true ∧ sourcesHeld i s = true ∧ t = completeCommand (commandEffect i (acceptCommand i s)) := by
  rw [exec_eq_runCommand] at h
  cases hwf : i.wellFormed with
  | false =>
    rw [runCommand_illegal _ hwf] at h
    cases h
    exact .inl ⟨.illegalCmd, by decide, rfl⟩
  | true =>
    cases held : sourcesHeld i s with
    | false =>
      rw [runCommand_noValue _ hwf held] at h
      cases h
      exact .inl ⟨.noValue, by decide, rfl⟩
    | true =>
      rw [runCommand_completes _ hwf held] at h
      cases h
      exact .inr ⟨rfl, rfl, rfl⟩

/-! ### What memory writes and sweeps leave alone -/

@[simp] theorem State.setMem_setMem (s : State) (sp : Space) (m m' : Memory) :
    (s.setMem sp m).setMem sp m' = s.setMem sp m' := by
  cases sp <;> rfl

/-- Writing bytes replaces the memory of their space and nothing else. -/
theorem State.writeBytes_eq_setMem (s : State) (sp : Space) (a : Nat) (vs : List Byte) :
    ∃ m, s.writeBytes sp a vs = s.setMem sp m := by
  induction vs generalizing s a with
  | nil => exact ⟨s.mem sp, by cases sp <;> rfl⟩
  | cons v rest ih =>
    obtain ⟨m, hm⟩ := ih (s.writeByte sp a v) (a + 1)
    exact ⟨m, by rw [State.writeBytes, hm, State.writeByte, State.setMem_setMem]⟩

/-- Writing blocks replaces the memory of their space and nothing else. -/
theorem State.writeBlocks_eq_setMem (s : State) (sp : Space) (i : Nat) (vs : List Block) :
    ∃ m, s.writeBlocks sp i vs = s.setMem sp m := by
  induction vs generalizing s i with
  | nil => exact ⟨s.mem sp, by cases sp <;> rfl⟩
  | cons v rest ih =>
    obtain ⟨m, hm⟩ := s.writeBytes_eq_setMem sp (blockAddress i) (blockBytes v)
    obtain ⟨m', hm'⟩ := ih (s.writeBlock sp i v) (i + 1)
    exact ⟨m', by rw [State.writeBlocks, hm', State.writeBlock, hm, State.setMem_setMem]⟩

/-- A sweep of `EXPLODE` replaces the memory of `PAD` and nothing else. -/
theorem explodeSweep_eq_setMem (keys : List Block) (off n i : Nat) (lanes : List Block) (s : State) :
    ∃ m, explodeSweep keys off n i lanes s = s.setMem .pad m := by
  induction n generalizing i lanes s with
  | zero => exact ⟨s.padMem, rfl⟩
  | succ n ih =>
    obtain ⟨m, hm⟩ := s.writeBlocks_eq_setMem .pad (i + off) (net lanes keys)
    obtain ⟨m', hm'⟩ := ih (i + 8) (net lanes keys) (s.writeBlocks .pad (i + off) (net lanes keys))
    exact ⟨m', by rw [explodeSweep, hm', hm, State.setMem_setMem]⟩

@[simp] theorem explodeSweep_geometry (keys : List Block) (off n i : Nat) (lanes : List Block) (s : State) :
    (explodeSweep keys off n i lanes s).geometry = s.geometry := by
  obtain ⟨m, hm⟩ := explodeSweep_eq_setMem keys off n i lanes s
  rw [hm, State.setMem_geometry]

/-- A sweep of `EXPLODE` leaves every block of `STATE` as it was. -/
@[simp] theorem readBlock_state_explodeSweep (keys : List Block) (off n i : Nat) (lanes : List Block) (s : State)
    (b : Nat) : (explodeSweep keys off n i lanes s).readBlock .state b = s.readBlock .state b := by
  obtain ⟨m, hm⟩ := explodeSweep_eq_setMem keys off n i lanes s
  rw [hm]
  rfl

/-! ### The two lane groups of the top-level commands (R172, R192) -/

/-- The pass of `EXPLODE` over one lane group, whose blocks stand at `off` in `STATE[4..11]` and in each window of `PAD`. -/
def explodeGroup (keys : List Block) (off : Nat) (s : State) : State :=
  explodeSweep keys off s.geometry.windows 0 (s.readBlocks .state (4 + off) 4) s

/-- The pass of `IMPLODE` over one lane group, and its store. -/
def implodeGroup (keys : List Block) (off : Nat) (s : State) : State :=
  s.writeBlocks .state (4 + off)
    (implodeSweep keys (s.readBlock .pad) off s.geometry.windows 0 (s.readBlocks .state (4 + off) 4))

/-- `EXPLODE` is group A's pass, group B's pass, and the end of the command (R172). -/
theorem explodeEffect_eq (s : State) :
    explodeEffect s =
      (explodeGroup (keyExpand (s.readBlock .state 0) (s.readBlock .state 1)) 4
        (explodeGroup (keyExpand (s.readBlock .state 0) (s.readBlock .state 1)) 0 s)).destroyRegisters.idleSequencer :=
  rfl

/-- `IMPLODE` is group A's pass, group B's pass, and the end of the command (R192). -/
theorem implodeEffect_eq (s : State) :
    implodeEffect s =
      (implodeGroup (keyExpand (s.readBlock .state 2) (s.readBlock .state 3)) 4
        (implodeGroup (keyExpand (s.readBlock .state 2) (s.readBlock .state 3)) 0 s)).destroyRegisters.idleSequencer :=
  rfl

/-- The end of both top-level commands leaves the memories alone. -/
@[simp] theorem readBlock_destroyRegisters_idleSequencer (s : State) (sp : Space) (b : Nat) :
    s.destroyRegisters.idleSequencer.readBlock sp b = s.readBlock sp b :=
  rfl

@[simp] theorem explodeGroup_geometry (keys : List Block) (off : Nat) (s : State) :
    (explodeGroup keys off s).geometry = s.geometry :=
  explodeSweep_geometry _ _ _ _ _ _

@[simp] theorem implodeGroup_geometry (keys : List Block) (off : Nat) (s : State) :
    (implodeGroup keys off s).geometry = s.geometry :=
  State.writeBlocks_geometry _ _ _ _

@[simp] theorem readBlock_state_explodeGroup (keys : List Block) (off : Nat) (s : State) (b : Nat) :
    (explodeGroup keys off s).readBlock .state b = s.readBlock .state b :=
  readBlock_state_explodeSweep _ _ _ _ _ _ _

/-! ### What no command's effect changes -/

theorem sameControl_setMem (s : State) (sp : Space) (m : Memory) : sameControl s (s.setMem sp m) := by
  simp [sameControl]

theorem sameControl.trans {s t u : State} (hst : sameControl s t) (htu : sameControl t u) : sameControl s u := by
  simp only [sameControl] at *
  simp [hst, htu]

theorem sameControl_writeBlocks (s : State) (sp : Space) (i : Nat) (vs : List Block) :
    sameControl s (s.writeBlocks sp i vs) := by
  simp [sameControl]

theorem sameControl_explodeGroup (keys : List Block) (off : Nat) (s : State) :
    sameControl s (explodeGroup keys off s) := by
  obtain ⟨m, hm⟩ := explodeSweep_eq_setMem keys off s.geometry.windows 0 (s.readBlocks .state (4 + off) 4) s
  rw [explodeGroup, hm]
  exact sameControl_setMem s .pad m

theorem sameControl_implodeGroup (keys : List Block) (off : Nat) (s : State) :
    sameControl s (implodeGroup keys off s) :=
  sameControl_writeBlocks _ _ _ _

/-- The end of both top-level commands leaves the control state alone. -/
theorem sameControl_destroyRegisters_idleSequencer (s : State) :
    sameControl s s.destroyRegisters.idleSequencer := by
  simp [sameControl]

/-- Nor does completion. -/
theorem sameControl_completeCommand (s : State) : sameControl s (completeCommand s) := by
  simp [sameControl]

/-- No command's effect changes the fault bits, `FAULTCMD`, `CFG`, the geometry or the host port (R91, R214). -/
theorem sameControl_commandEffect (i : Instr) (s : State) : sameControl s (commandEffect i s) := by
  cases i with
  | explode =>
    exact ((sameControl_explodeGroup _ 0 s).trans (sameControl_explodeGroup _ 4 _)).trans
      (sameControl_destroyRegisters_idleSequencer _)
  | implode =>
    exact ((sameControl_implodeGroup _ 0 s).trans (sameControl_implodeGroup _ 4 _)).trans
      (sameControl_destroyRegisters_idleSequencer _)
  | _ => simp [sameControl, commandEffect]

/-- Acceptance and completion of a command around its effect leave the control state alone (R91). -/
theorem sameControl_completed (i : Instr) (s : State) :
    sameControl s (completeCommand (commandEffect i (acceptCommand i s))) :=
  sameControl_commandEffect i (acceptCommand i s)

/-- A component command leaves the sequencer alone, a top-level command leaves it idle (R27, R214): from a resting sequencer
every command ends in one. -/
theorem seq_commandEffect_acceptCommand {i : Instr} {s : State} (h : s.seq = restingSequencer) :
    (commandEffect i (acceptCommand i s)).seq = restingSequencer := by
  cases i with
  | explode | implode => rfl
  | _ => simpa [commandEffect, startSequencer] using h

/-! ### The rows of the two machines, one equation per row (R173, R193) -/

theorem explodeRow_keygen {s : State} (h : s.seq.phase = .keygen) :
    explodeRow s = { s.setKeys 0 (keyExpand (s.readBlock .state 0) (s.readBlock .state 1)) with
      seq := { s.seq with phase := .loadA } } := by
  simp only [explodeRow, h]

theorem explodeRow_loadA {s : State} (h : s.seq.phase = .loadA) :
    explodeRow s = { s.setLanes 0 (s.readBlocks .state 4 4) with seq := { s.seq with phase := .sweepA, idx := 0 } } := by
  simp only [explodeRow, h]

theorem explodeRow_sweepA {s : State} (h : s.seq.phase = .sweepA) (more : s.seq.idx < s.geometry.blocks) :
    explodeRow s = explodeSweepRow 0 s := by
  simp only [explodeRow, h, more, if_true]

theorem explodeRow_sweepA_end {s : State} (h : s.seq.phase = .sweepA) (swept : ¬ s.seq.idx < s.geometry.blocks) :
    explodeRow s = { s with seq := { s.seq with phase := .loadB } } := by
  simp only [explodeRow, h, swept, if_false]

theorem explodeRow_loadB {s : State} (h : s.seq.phase = .loadB) :
    explodeRow s = { s.setLanes 0 (s.readBlocks .state 8 4) with seq := { s.seq with phase := .sweepB, idx := 0 } } := by
  simp only [explodeRow, h]

theorem explodeRow_sweepB {s : State} (h : s.seq.phase = .sweepB) (more : s.seq.idx < s.geometry.blocks) :
    explodeRow s = explodeSweepRow 4 s := by
  simp only [explodeRow, h, more, if_true]

theorem explodeRow_sweepB_end {s : State} (h : s.seq.phase = .sweepB) (swept : ¬ s.seq.idx < s.geometry.blocks) :
    explodeRow s = completeCommand s.destroyRegisters.idleSequencer := by
  simp only [explodeRow, h, swept, if_false]

/-- A phase for which R173 has no row leaves the expander where it is (log 17). -/
theorem explodeRow_no_row {s : State} (h : s.seq.phase ∈ [Phase.storeA, .storeB, .idle]) : explodeRow s = s := by
  simp only [List.mem_cons, List.not_mem_nil, or_false] at h
  rcases h with h | h | h <;> simp only [explodeRow, h]

theorem implodeRow_keygen {s : State} (h : s.seq.phase = .keygen) :
    implodeRow s = { s.setKeys 0 (keyExpand (s.readBlock .state 2) (s.readBlock .state 3)) with
      seq := { s.seq with phase := .loadA } } := by
  simp only [implodeRow, h]

theorem implodeRow_loadA {s : State} (h : s.seq.phase = .loadA) :
    implodeRow s = { s.setLanes 0 (s.readBlocks .state 4 4) with seq := { s.seq with phase := .sweepA, idx := 0 } } := by
  simp only [implodeRow, h]

theorem implodeRow_sweepA {s : State} (h : s.seq.phase = .sweepA) (more : s.seq.idx < s.geometry.blocks) :
    implodeRow s = implodeSweepRow 0 s := by
  simp only [implodeRow, h, more, if_true]

theorem implodeRow_sweepA_end {s : State} (h : s.seq.phase = .sweepA) (swept : ¬ s.seq.idx < s.geometry.blocks) :
    implodeRow s = { s with seq := { s.seq with phase := .storeA } } := by
  simp only [implodeRow, h, swept, if_false]

theorem implodeRow_storeA {s : State} (h : s.seq.phase = .storeA) :
    implodeRow s = { s.writeBlocks .state 4 (s.lanes 0 4) with seq := { s.seq with phase := .loadB } } := by
  simp only [implodeRow, h]

theorem implodeRow_loadB {s : State} (h : s.seq.phase = .loadB) :
    implodeRow s = { s.setLanes 0 (s.readBlocks .state 8 4) with seq := { s.seq with phase := .sweepB, idx := 0 } } := by
  simp only [implodeRow, h]

theorem implodeRow_sweepB {s : State} (h : s.seq.phase = .sweepB) (more : s.seq.idx < s.geometry.blocks) :
    implodeRow s = implodeSweepRow 4 s := by
  simp only [implodeRow, h, more, if_true]

theorem implodeRow_sweepB_end {s : State} (h : s.seq.phase = .sweepB) (swept : ¬ s.seq.idx < s.geometry.blocks) :
    implodeRow s = { s with seq := { s.seq with phase := .storeB } } := by
  simp only [implodeRow, h, swept, if_false]

theorem implodeRow_storeB {s : State} (h : s.seq.phase = .storeB) :
    implodeRow s =
      completeCommand (s.writeBlocks .state 8 (s.lanes 0 4)).destroyRegisters.idleSequencer := by
  simp only [implodeRow, h]

/-- The idle phase, for which R193 has no row, leaves the folder where it is (log 17). -/
theorem implodeRow_no_row {s : State} (h : s.seq.phase = .idle) : implodeRow s = s := by
  simp only [implodeRow, h]

/-! ### The micro-step (R173, R193, R273) -/

theorem engineStep_explode {s : State} (h : s.seq.op = .explode) : engineStep s = .next (explodeRow s) := by
  simp only [engineStep, h]

theorem engineStep_implode {s : State} (h : s.seq.op = .implode) : engineStep s = .next (implodeRow s) := by
  simp only [engineStep, h]

theorem engineStep_component {s : State} {i : Instr} (h : s.seq.op = .none) (hr : s.running = some i) :
    engineStep s = exec i s := by
  simp only [engineStep, h, hr]

/-- A busy engine with no command in progress completes (log 17). -/
theorem engineStep_no_command {s : State} (h : s.seq.op = .none) (hr : s.running = none) :
    engineStep s = .next (completeCommand s) := by
  simp only [engineStep, h, hr]

end Sys2Proof.Machine
end

section
/-! SUPPORT. `CFG.PREFETCH_EN` is stored and nothing more: no operation of the engine looks at it (R34, R70, R178, R197). -/

namespace Sys2Proof.Machine

/-- The operation does the same for both values of `PREFETCH_EN`, and leaves the bit as it is. -/
def IgnoresPrefetch (f : State → State) : Prop :=
  ∀ (s : State) (p : Bool), f { s with prefetchEn := p } = { f s with prefetchEn := p }

theorem ignoresPrefetch_writeByte (sp : Space) (a : Nat) (v : Byte) :
    IgnoresPrefetch fun s => s.writeByte sp a v := by
  intro s p
  cases sp <;> rfl

theorem ignoresPrefetch_writeBytes (sp : Space) (a : Nat) (vs : List Byte) :
    IgnoresPrefetch fun s => s.writeBytes sp a vs := by
  intro s p
  induction vs generalizing s a with
  | nil => rfl
  | cons v rest ih =>
    have first := ignoresPrefetch_writeByte sp a v s p
    simp only [State.writeBytes] at *
    rw [first, ih]

theorem ignoresPrefetch_writeBlock (sp : Space) (i : Nat) (v : Block) :
    IgnoresPrefetch fun s => s.writeBlock sp i v :=
  ignoresPrefetch_writeBytes sp (blockAddress i) (blockBytes v)

theorem ignoresPrefetch_writeBlocks (sp : Space) (i : Nat) (vs : List Block) :
    IgnoresPrefetch fun s => s.writeBlocks sp i vs := by
  intro s p
  induction vs generalizing s i with
  | nil => rfl
  | cons v rest ih =>
    have first := ignoresPrefetch_writeBlock sp i v s p
    simp only [State.writeBlocks] at *
    rw [first, ih]

theorem ignoresPrefetch_setLanes (d : Nat) (vs : List Block) : IgnoresPrefetch fun s => s.setLanes d vs := by
  intro s p
  induction vs generalizing s d with
  | nil => rfl
  | cons v rest ih => exact ih (d + 1) (s.setLane d v)

theorem ignoresPrefetch_setKeys (k : Nat) (vs : List Block) : IgnoresPrefetch fun s => s.setKeys k vs := by
  intro s p
  induction vs generalizing s k with
  | nil => rfl
  | cons v rest ih => exact ih (k + 1) (s.setKey k v)

theorem ignoresPrefetch_explodeSweep (keys : List Block) (off n i : Nat) (lanes : List Block) :
    IgnoresPrefetch (explodeSweep keys off n i lanes) := by
  intro s p
  induction n generalizing i lanes s with
  | zero => rfl
  | succ n ih =>
    have first := ignoresPrefetch_writeBlocks .pad (i + off) (net lanes keys) s p
    simp only [explodeSweep] at *
    rw [first, ih]

theorem ignoresPrefetch_explodeGroup (keys : List Block) (off : Nat) : IgnoresPrefetch (explodeGroup keys off) :=
  fun s p => ignoresPrefetch_explodeSweep keys off s.geometry.windows 0 (s.readBlocks .state (4 + off) 4) s p

theorem ignoresPrefetch_implodeGroup (keys : List Block) (off : Nat) : IgnoresPrefetch (implodeGroup keys off) :=
  fun s p => ignoresPrefetch_writeBlocks .state (4 + off) _ s p

theorem IgnoresPrefetch.comp {f g : State → State} (hg : IgnoresPrefetch g) (hf : IgnoresPrefetch f) :
    IgnoresPrefetch fun s => g (f s) := by
  intro s p
  show g (f { s with prefetchEn := p }) = _
  rw [hf s p, hg (f s) p]

/-- No command's effect looks at `PREFETCH_EN`. -/
theorem ignoresPrefetch_commandEffect (i : Instr) : IgnoresPrefetch (commandEffect i) := by
  intro s p
  cases i with
  | ldx d b => rfl
  | ldk k b => rfl
  | aesrnd d k => rfl
  | kassist d rcon => rfl
  | stx d b => exact ignoresPrefetch_writeBlock _ _ _ s p
  | stk k b => exact ignoresPrefetch_writeBlock _ _ _ s p
  | kexp => exact ignoresPrefetch_setKeys _ _ s p
  | round4 d k => exact ignoresPrefetch_setLanes _ _ s p
  | round8 k => exact ignoresPrefetch_setLanes _ _ s p
  | net4 d => exact ignoresPrefetch_setLanes _ _ s p
  | net8 => exact ignoresPrefetch_setLanes _ _ s p
  | explode =>
    exact congrArg (fun u => u.destroyRegisters.idleSequencer)
      ((ignoresPrefetch_explodeGroup _ 4).comp (ignoresPrefetch_explodeGroup _ 0) s p)
  | implode =>
    exact congrArg (fun u => u.destroyRegisters.idleSequencer)
      ((ignoresPrefetch_implodeGroup _ 4).comp (ignoresPrefetch_implodeGroup _ 0) s p)

/-- A command does the same for both values of `PREFETCH_EN`: its checks look at the registers alone. -/
theorem exec_withPrefetch {i : Instr} {s t : State} (p : Bool) (h : exec i s = .next t) :
    exec i { s with prefetchEn := p } = .next { t with prefetchEn := p } := by
  rw [exec_eq_runCommand] at *
  have sameFault : commandFault i { s with prefetchEn := p } = commandFault i s := rfl
  unfold runCommand at *
  rw [sameFault]
  cases hc : commandFault i s with
  | none =>
    rw [hc] at h
    cases h
    exact congrArg (fun u => Host.Outcome.next (completeCommand u))
      (ignoresPrefetch_commandEffect i (acceptCommand i s) p)
  | illegalCmd | noValue =>
    rw [hc] at h
    cases h
    rfl

/-! ### The micro-steps -/

/-- Setting the sequencer after an operation does not look at `PREFETCH_EN` either. -/
theorem IgnoresPrefetch.thenSeq {f : State → State} (hf : IgnoresPrefetch f) (q : Sequencer) :
    IgnoresPrefetch fun s => { f s with seq := q } :=
  fun s p => congrArg (fun u : State => { u with seq := q }) (hf s p)

/-- The end of a top-level command does not look at `PREFETCH_EN`. -/
theorem ignoresPrefetch_commandEnd : IgnoresPrefetch fun s => completeCommand s.destroyRegisters.idleSequencer :=
  fun _ _ => rfl

theorem ignoresPrefetch_explodeSweepRow (off : Nat) : IgnoresPrefetch (explodeSweepRow off) := fun s p =>
  (((ignoresPrefetch_writeBlocks .pad (s.seq.idx + off) (net (s.lanes 0 4) s.keys)).comp
    (ignoresPrefetch_setLanes 0 (net (s.lanes 0 4) s.keys))).thenSeq { s.seq with idx := s.seq.idx + 8 }) s p

theorem ignoresPrefetch_implodeSweepRow (off : Nat) : IgnoresPrefetch (implodeSweepRow off) := fun s p =>
  (ignoresPrefetch_setLanes 0 _).thenSeq { s.seq with idx := s.seq.idx + 8 } s p

/-- Where a row answers `r`, and with the other value of the bit answers `r` with that value, it has not looked at it. -/
theorem row_withPrefetch {row : State → State} {s r r' : State} {p : Bool} (hr : row s = r)
    (hr' : row { s with prefetchEn := p } = r') (h : r' = { r with prefetchEn := p }) :
    row { s with prefetchEn := p } = { row s with prefetchEn := p } := by
  rw [hr, hr', h]

/-- No row of the expander looks at `PREFETCH_EN` (R178). -/
theorem ignoresPrefetch_explodeRow : IgnoresPrefetch explodeRow := by
  intro s p
  cases phase : s.seq.phase with
  | keygen =>
    exact row_withPrefetch (explodeRow_keygen phase) (explodeRow_keygen phase)
      ((ignoresPrefetch_setKeys 0 _).thenSeq { s.seq with phase := .loadA } s p)
  | loadA =>
    exact row_withPrefetch (explodeRow_loadA phase) (explodeRow_loadA phase)
      ((ignoresPrefetch_setLanes 0 _).thenSeq { s.seq with phase := .sweepA, idx := 0 } s p)
  | sweepA =>
    by_cases more : s.seq.idx < s.geometry.blocks
    · exact row_withPrefetch (explodeRow_sweepA phase more) (explodeRow_sweepA phase more)
        (ignoresPrefetch_explodeSweepRow 0 s p)
    · exact row_withPrefetch (explodeRow_sweepA_end phase more) (explodeRow_sweepA_end phase more) rfl
  | loadB =>
    exact row_withPrefetch (explodeRow_loadB phase) (explodeRow_loadB phase)
      ((ignoresPrefetch_setLanes 0 _).thenSeq { s.seq with phase := .sweepB, idx := 0 } s p)
  | sweepB =>
    by_cases more : s.seq.idx < s.geometry.blocks
    · exact row_withPrefetch (explodeRow_sweepB phase more) (explodeRow_sweepB phase more)
        (ignoresPrefetch_explodeSweepRow 4 s p)
    · exact row_withPrefetch (explodeRow_sweepB_end phase more) (explodeRow_sweepB_end phase more) rfl
  | storeA | storeB | idle =>
    exact row_withPrefetch (explodeRow_no_row (by simp [phase])) (explodeRow_no_row (by simp [phase])) rfl

/-- No row of the folder looks at `PREFETCH_EN` (R197). -/
theorem ignoresPrefetch_implodeRow : IgnoresPrefetch implodeRow := by
  intro s p
  cases phase : s.seq.phase with
  | keygen =>
    exact row_withPrefetch (implodeRow_keygen phase) (implodeRow_keygen phase)
      ((ignoresPrefetch_setKeys 0 _).thenSeq { s.seq with phase := .loadA } s p)
  | loadA =>
    exact row_withPrefetch (implodeRow_loadA phase) (implodeRow_loadA phase)
      ((ignoresPrefetch_setLanes 0 _).thenSeq { s.seq with phase := .sweepA, idx := 0 } s p)
  | sweepA =>
    by_cases more : s.seq.idx < s.geometry.blocks
    · exact row_withPrefetch (implodeRow_sweepA phase more) (implodeRow_sweepA phase more)
        (ignoresPrefetch_implodeSweepRow 0 s p)
    · exact row_withPrefetch (implodeRow_sweepA_end phase more) (implodeRow_sweepA_end phase more) rfl
  | storeA =>
    exact row_withPrefetch (implodeRow_storeA phase) (implodeRow_storeA phase)
      ((ignoresPrefetch_writeBlocks .state 4 _).thenSeq { s.seq with phase := .loadB } s p)
  | loadB =>
    exact row_withPrefetch (implodeRow_loadB phase) (implodeRow_loadB phase)
      ((ignoresPrefetch_setLanes 0 _).thenSeq { s.seq with phase := .sweepB, idx := 0 } s p)
  | sweepB =>
    by_cases more : s.seq.idx < s.geometry.blocks
    · exact row_withPrefetch (implodeRow_sweepB phase more) (implodeRow_sweepB phase more)
        (ignoresPrefetch_implodeSweepRow 4 s p)
    · exact row_withPrefetch (implodeRow_sweepB_end phase more) (implodeRow_sweepB_end phase more) rfl
  | storeB =>
    exact row_withPrefetch (implodeRow_storeB phase) (implodeRow_storeB phase)
      (ignoresPrefetch_commandEnd.comp (ignoresPrefetch_writeBlocks .state 8 (s.lanes 0 4)) s p)
  | idle => exact row_withPrefetch (implodeRow_no_row phase) (implodeRow_no_row phase) rfl

/-- A micro-step does the same for both values of `PREFETCH_EN`. -/
theorem engineStep_withPrefetch {s t : State} (p : Bool) (h : engineStep s = .next t) :
    engineStep { s with prefetchEn := p } = .next { t with prefetchEn := p } := by
  cases op : s.seq.op with
  | explode =>
    rw [engineStep_explode op] at h
    cases h
    rw [engineStep_explode (s := { s with prefetchEn := p }) op, ignoresPrefetch_explodeRow s p]
  | implode =>
    rw [engineStep_implode op] at h
    cases h
    rw [engineStep_implode (s := { s with prefetchEn := p }) op, ignoresPrefetch_implodeRow s p]
  | none =>
    rcases Option.eq_none_or_eq_some s.running with hr | ⟨i, hr⟩
    · rw [engineStep_no_command op hr] at h
      cases h
      exact engineStep_no_command (s := { s with prefetchEn := p }) op hr
    · rw [engineStep_component op hr] at h
      exact (engineStep_component (s := { s with prefetchEn := p }) op hr).trans (exec_withPrefetch p h)

/-- Settles O48: no command and no micro-step looks at `PREFETCH_EN`. -/
theorem prefetchBitHasNoEffect : Obligations.PrefetchBitHasNoEffect := by
  unfold Obligations.PrefetchBitHasNoEffect
  exact ⟨fun _ _ _ p => exec_withPrefetch p, fun _ _ p => engineStep_withPrefetch p⟩

end Sys2Proof.Machine
end

section
/-! SUPPORT. What one step of the machine can do to the state, whatever the host does (R91, R235, R260 to R270), and what
follows for the registers of the control port. -/

namespace Sys2Proof.Machine

/-! ### What each host action answers -/

/-- A write that the port never holds off has no register behind it, and is ignored (R30, R36, R268). -/
theorem ctlWrite_ignored {offset width : Nat} (v : Word) (s : State) (h : heldOff offset width = false) :
    ctlWrite offset width v s = s := by
  simp only [heldOff, Bool.and_eq_false_imp, Bool.or_eq_false_iff, decide_eq_true_eq, decide_eq_false_iff_not] at h
  unfold ctlWrite
  split
  case isTrue hw => rw [if_neg (h hw).1, if_neg (h hw).2]
  case isFalse => rfl

/-- A host write that is made lies in its space, and writes its bytes (R51, R267; logs 10 and 11). -/
theorem hostWrite_cases {sp : Space} {a : Nat} {bytes : List Byte} {s t : State}
    (h : hostWrite sp a bytes s = .next t) :
    s.status.busy = false ∧ a + bytes.length ≤ s.spaceSize sp ∧ t = s.writeBytes sp a bytes := by
  unfold hostWrite at h
  split at h
  case isTrue => cases h
  case isFalse hb =>
    split at h
    case isTrue hr => cases h; exact ⟨by simpa using hb, by simpa [inRange] using hr, rfl⟩
    case isFalse => cases h

/-- A host read that is made changes only the replies (R51, R267; logs 10 and 11). -/
theorem hostRead_cases {sp : Space} {a n : Nat} {s t : State} (h : hostRead sp a n s = .next t) :
    t = { s with replies := .mem (s.readBytes sp a n) :: s.replies } := by
  unfold hostRead at h
  split at h
  case isTrue => cases h
  case isFalse =>
    split at h
    case isTrue => cases h; rfl
    case isFalse => cases h

/-! ### The moves of the machine -/

/-- What one step can make of a state, the host's queue set aside: each constructor names what the step is. -/
inductive Move (s : State) : State → Prop where
  /-- nothing happens: the engine waits, or the port ignores or discards the host's action (R36, R235, R245) -/
  | stay : Move s s
  /-- the running engine makes a micro-step (R173, R193, R273) -/
  | microStep {t : State} (busy : s.status.busy = true) (h : engineStep s = .next t) : Move s t
  /-- a command runs from issue to completion (R91) -/
  | complete {i : Instr} (idle : s.status.busy = false) (unfaulted : s.status.fault = false)
      (wf : i.wellFormed = true) (held : sourcesHeld i s = true) :
      Move s (completeCommand (commandEffect i (acceptCommand i s)))
  /-- a posted command is accepted (R91) -/
  | accept {i : Instr} (idle : s.status.busy = false) (unfaulted : s.status.fault = false)
      (wf : i.wellFormed = true) (held : sourcesHeld i s = true) : Move s (acceptCommand i s)
  /-- a command word is refused with a fault (R231 to R234) -/
  | takeFault {c : Cause} {w : Word} (idle : s.status.busy = false) (hc : c ≠ .none) : Move s (raiseFault c w s)
  /-- the host writes `CFG` (R34) -/
  | configure (p : Bool) : Move s { s with prefetchEn := p }
  /-- the host reads, and gets its reply -/
  | reply (r : Reply) : Move s { s with replies := r :: s.replies }
  /-- the host writes bytes of a memory (R51, R267) -/
  | hostWrite {sp : Space} {a : Nat} {bytes : List Byte} (fits : a + bytes.length ≤ s.spaceSize sp) :
      Move s (s.writeBytes sp a bytes)
  /-- `rst` is asserted (R260, R261) -/
  | reset : Move s (resetInput s)

theorem move_of_callCommand {w : Word} {s t : State} (idle : s.status.busy = false)
    (h : callCommand w s = .next t) : Move s t := by
  unfold callCommand at h
  split at h
  case isTrue => cases h; exact .stay
  case isFalse unfaulted =>
    split at h
    case h_1 => cases h; exact .takeFault idle (by decide)
    case h_2 i hd =>
      rcases exec_cases h with ⟨c, hc, rfl⟩ | ⟨hwf, held, rfl⟩
      · exact .takeFault idle hc
      · exact .complete idle (by simpa using unfaulted) hwf held

theorem move_postCommand (w : Word) {s : State} (idle : s.status.busy = false) : Move s (postCommand w s) := by
  unfold postCommand
  split
  case isTrue => exact .stay
  case isFalse unfaulted =>
    split
    case h_1 => exact .takeFault idle (by decide)
    case h_2 i hd =>
      split
      case h_1 hc =>
        obtain ⟨hwf, held⟩ := commandFault_eq_none_iff.1 hc
        exact .accept idle (by simpa using unfaulted) hwf held
      case h_2 hc => exact .takeFault idle hc

theorem move_ctlWrite (offset width : Nat) (v : Word) {s : State} (idle : s.status.busy = false) :
    Move s (ctlWrite offset width v s) := by
  unfold ctlWrite
  split_ifs
  · exact move_postCommand v idle
  · exact .configure _
  · exact .stay
  · exact .stay

/-- One host action, on the state with the action still queued or already taken. -/
theorem move_of_hostStep {a : HostAction} {s t : State} {rest : List HostAction}
    (h : hostStep a s { s with pending := rest } = .next t) :
    ∃ q, Move { s with pending := q } t := by
  cases a with
  | call w =>
    simp only [hostStep] at h
    split at h
    case isTrue busy => exact ⟨s.pending, .microStep busy h⟩
    case isFalse idle => exact ⟨rest, move_of_callCommand (by simpa using idle) h⟩
  | ctlWrite offset width v =>
    simp only [hostStep] at h
    split at h
    case isTrue busy => exact ⟨s.pending, .microStep (Bool.and_eq_true_iff.1 busy).1 h⟩
    case isFalse free =>
      cases h
      refine ⟨rest, ?_⟩
      cases busy : s.status.busy with
      | false => exact move_ctlWrite offset width v busy
      | true =>
        rw [ctlWrite_ignored v _ (by simpa [busy] using free)]
        exact .stay
  | ctlRead offset width => cases h; exact ⟨rest, .reply _⟩
  | memWrite sp addr bytes =>
    obtain ⟨-, fits, rfl⟩ := hostWrite_cases h
    exact ⟨rest, .hostWrite fits⟩
  | memRead sp addr n =>
    obtain rfl := hostRead_cases h
    exact ⟨rest, .reply _⟩
  | tick =>
    simp only [hostStep] at h
    split at h
    case isTrue busy => exact ⟨rest, .microStep busy h⟩
    case isFalse => cases h; exact ⟨rest, .stay⟩
  | reset => cases h; exact ⟨rest, .reset⟩

/-- Every step is one of the moves, from the state with the queue that the step leaves. -/
theorem move_of_step {s t : State} (h : step s = .next t) : ∃ q, Move { s with pending := q } t := by
  cases hp : s.pending with
  | nil =>
    cases busy : s.status.busy with
    | true => exact ⟨s.pending, .microStep busy (step_busy hp busy ▸ h)⟩
    | false =>
      rw [step_idle hp busy] at h
      cases h
      exact ⟨s.pending, .stay⟩
  | cons a rest => exact move_of_hostStep (step_action hp ▸ h)

/-! ### What micro-steps and moves leave alone -/

theorem sameControl_explodeRow (s : State) : sameControl s (explodeRow s) := by
  cases phase : s.seq.phase with
  | keygen => simp [explodeRow_keygen phase, sameControl]
  | loadA => simp [explodeRow_loadA phase, sameControl]
  | sweepA =>
    by_cases more : s.seq.idx < s.geometry.blocks
    · simp [explodeRow_sweepA phase more, explodeSweepRow, sameControl]
    · simp [explodeRow_sweepA_end phase more, sameControl]
  | loadB => simp [explodeRow_loadB phase, sameControl]
  | sweepB =>
    by_cases more : s.seq.idx < s.geometry.blocks
    · simp [explodeRow_sweepB phase more, explodeSweepRow, sameControl]
    · simp [explodeRow_sweepB_end phase more, sameControl]
  | storeA | storeB | idle => simp [explodeRow_no_row, phase, sameControl]

theorem sameControl_implodeRow (s : State) : sameControl s (implodeRow s) := by
  cases phase : s.seq.phase with
  | keygen => simp [implodeRow_keygen phase, sameControl]
  | loadA => simp [implodeRow_loadA phase, sameControl]
  | sweepA =>
    by_cases more : s.seq.idx < s.geometry.blocks
    · simp [implodeRow_sweepA phase more, implodeSweepRow, sameControl]
    · simp [implodeRow_sweepA_end phase more, sameControl]
  | storeA => simp [implodeRow_storeA phase, sameControl]
  | loadB => simp [implodeRow_loadB phase, sameControl]
  | sweepB =>
    by_cases more : s.seq.idx < s.geometry.blocks
    · simp [implodeRow_sweepB phase more, implodeSweepRow, sameControl]
    · simp [implodeRow_sweepB_end phase more, sameControl]
  | storeB =>
    rw [implodeRow_storeB phase]
    exact ((sameControl_writeBlocks s .state 8 (s.lanes 0 4)).trans
      (sameControl_destroyRegisters_idleSequencer _)).trans (sameControl_completeCommand _)
  | idle => simp [implodeRow_no_row phase, sameControl]

theorem sameControl.geometry {s t : State} (h : sameControl s t) : t.geometry = s.geometry := by
  obtain ⟨-, -, -, -, hg, -⟩ := h
  exact hg

theorem exec_geometry {i : Instr} {s t : State} (h : exec i s = .next t) : t.geometry = s.geometry := by
  rcases exec_cases h with ⟨c, -, rfl⟩ | ⟨-, -, rfl⟩
  · rfl
  · exact (sameControl_completed i s).geometry

theorem engineStep_geometry {s t : State} (h : engineStep s = .next t) : t.geometry = s.geometry := by
  cases op : s.seq.op with
  | explode =>
    rw [engineStep_explode op] at h
    cases h
    exact (sameControl_explodeRow s).geometry
  | implode =>
    rw [engineStep_implode op] at h
    cases h
    exact (sameControl_implodeRow s).geometry
  | none =>
    cases hr : s.running with
    | none =>
      rw [engineStep_no_command op hr] at h
      cases h
      rfl
    | some i => exact exec_geometry (engineStep_component op hr ▸ h)

theorem resetInput_geometry (s : State) : (resetInput s).geometry = s.geometry := by
  simp only [resetInput, State.resetEngine_geometry, abortRunning]
  split
  · rfl
  · exact State.leaveUnspecified_geometry _ _ _ _

theorem Move.geometry {s t : State} (h : Move s t) : t.geometry = s.geometry := by
  cases h with
  | stay | accept | takeFault | configure | reply => rfl
  | microStep _ h => exact engineStep_geometry h
  | complete => exact (sameControl_completed _ s).geometry
  | hostWrite => exact State.writeBytes_geometry _ _ _ _
  | reset => exact resetInput_geometry s

/-- Settles O57: no move of the machine writes the build parameter. -/
theorem buildParameterNeverChanges : Obligations.BuildParameterNeverChanges := by
  unfold Obligations.BuildParameterNeverChanges
  intro s t h
  obtain ⟨q, hm⟩ := move_of_step h
  exact hm.geometry

/-- Settles O52: a host action other than a command and reset does nothing to an engine that is not busy but configure it,
reply, or write bytes of a memory. -/
theorem hostCannotReachTheRegisters : Obligations.HostCannotReachTheRegisters := by
  unfold Obligations.HostCannotReachTheRegisters
  intro s t a rest hp idle notCall notCmd notReset h
  rw [step_action hp] at h
  cases a with
  | call w => exact absurd rfl (notCall w)
  | ctlWrite offset width v =>
    simp only [hostStep, idle, Bool.false_and] at h
    cases h
    simp only [ctlWrite]
    split_ifs with hw ho
    · exact absurd (by rw [hw, ho]) (notCmd v)
    · exact ⟨fun _ => rfl, fun _ => rfl, rfl, rfl, rfl⟩
    · exact ⟨fun _ => rfl, fun _ => rfl, rfl, rfl, rfl⟩
    · exact ⟨fun _ => rfl, fun _ => rfl, rfl, rfl, rfl⟩
  | ctlRead offset width =>
    cases h
    exact ⟨fun _ => rfl, fun _ => rfl, rfl, rfl, rfl⟩
  | memWrite sp addr bytes =>
    obtain ⟨-, -, rfl⟩ := hostWrite_cases h
    exact ⟨State.lane_congr (State.writeBytes_x _ _ _ _), State.key_congr (State.writeBytes_k _ _ _ _),
      State.writeBytes_seq _ _ _ _, State.writeBytes_running _ _ _ _, State.writeBytes_status _ _ _ _⟩
  | memRead sp addr n =>
    obtain rfl := hostRead_cases h
    exact ⟨fun _ => rfl, fun _ => rfl, rfl, rfl, rfl⟩
  | tick =>
    simp only [hostStep, idle] at h
    cases h
    exact ⟨fun _ => rfl, fun _ => rfl, rfl, rfl, rfl⟩
  | reset => exact absurd rfl notReset

end Sys2Proof.Machine
end

section
/-! SUPPORT. The invariant of the machine: what it says of an idle and of a running engine, and that every move of the machine
keeps it (R27, R28, R32, R33, R37, R58). -/

namespace Sys2Proof.Machine

/-! ### Memory -/

theorem State.memoriesOk_iff {s : State} : s.memoriesOk ↔ s.memoryLegal := by
  constructor
  · intro h
    obtain ⟨stateWf, stateIn⟩ := h .state
    obtain ⟨padWf, padIn⟩ := h .pad
    exact ⟨stateWf, padWf, stateIn, padIn⟩
  · rintro ⟨stateWf, padWf, stateIn, padIn⟩ sp
    cases sp with
    | state => exact ⟨stateWf, stateIn⟩
    | pad => exact ⟨padWf, padIn⟩

/-- The canonical form speaks of the two memories and the geometry alone. -/
theorem State.memoriesOk_congr {s t : State} (hs : t.stateMem = s.stateMem) (hp : t.padMem = s.padMem)
    (hg : t.geometry = s.geometry) (h : s.memoriesOk) : t.memoriesOk := by
  rw [State.memoriesOk_iff] at *
  rwa [State.memoryLegal, hs, hp, hg]

/-- `STATE` has twelve blocks (R38). -/
theorem State.blockAddress_le_state {s : State} {i : Nat} (h : i ≤ 12) : blockAddress i ≤ s.spaceSize .state := by
  simp only [blockAddress, State.spaceSize]
  omega

/-- `PAD` has `N` blocks (R39). -/
theorem State.blockAddress_le_pad {s : State} {i : Nat} (h : i ≤ s.geometry.blocks) :
    blockAddress i ≤ s.spaceSize .pad := by
  simp only [blockAddress, State.spaceSize, Geometry.blocks, Geometry.mem] at *
  omega

theorem isStateBlock_iff (b : BitVec 4) : isStateBlock b = true ↔ b.toNat ≤ 11 := by
  simp [isStateBlock, BitVec.le_def]

/-- A sweep of `EXPLODE` over the windows that exist writes inside `PAD` (R58). -/
theorem explodeSweep_memoriesOk {s : State} (keys : List Block) {off n i : Nat} {lanes : List Block} (h : s.memoriesOk)
    (hoff : off + lanes.length ≤ 8) (hi : i + 8 * n ≤ s.geometry.blocks) :
    (explodeSweep keys off n i lanes s).memoriesOk := by
  induction n generalizing i lanes s with
  | zero => exact h
  | succ n ih =>
    rw [explodeSweep]
    refine ih (State.writeBlocks_memoriesOk .pad _ h (State.blockAddress_le_pad ?_)) (by simpa using hoff) ?_
    · rw [length_net]
      omega
    · rw [State.writeBlocks_geometry]
      omega

theorem explodeGroup_memoriesOk {s : State} (keys : List Block) {off : Nat} (h : s.memoriesOk) (hoff : off ≤ 4) :
    (explodeGroup keys off s).memoriesOk :=
  explodeSweep_memoriesOk keys h (by rw [State.length_readBlocks]; omega) (by rw [Geometry.blocks]; omega)

@[simp] theorem length_xorLanes (lanes blocks : List Block) :
    (xorLanes lanes blocks).length = min lanes.length blocks.length := by
  simp [xorLanes]

theorem length_implodeSweep_le (keys : List Block) (pad : Nat → Block) (off n i : Nat) (lanes : List Block) :
    (implodeSweep keys pad off n i lanes).length ≤ lanes.length := by
  induction n generalizing i lanes with
  | zero => exact le_rfl
  | succ n ih =>
    refine (ih _ _).trans ?_
    rw [length_net, length_xorLanes]
    exact min_le_left _ _

theorem implodeGroup_memoriesOk {s : State} (keys : List Block) {off : Nat} (h : s.memoriesOk) (hoff : off ≤ 4) :
    (implodeGroup keys off s).memoriesOk := by
  refine State.writeBlocks_memoriesOk .state _ h (State.blockAddress_le_state ?_)
  have := length_implodeSweep_le keys (s.readBlock .pad) off s.geometry.windows 0 (s.readBlocks .state (4 + off) 4)
  rw [State.length_readBlocks] at this
  omega

/-- Every legal command writes inside the memories (R58). -/
theorem commandEffect_memoriesOk {i : Instr} {s : State} (hwf : i.wellFormed = true) (h : s.memoriesOk) :
    (commandEffect i s).memoriesOk := by
  cases i with
  | stx d b | stk k b =>
    obtain ⟨-, hb⟩ := Bool.and_eq_true_iff.1 hwf
    have := (isStateBlock_iff b).1 hb
    exact State.writeBlock_memoriesOk .state _ h (State.blockAddress_le_state (by omega))
  | explode =>
    exact State.memoriesOk_congr rfl rfl rfl
      (explodeGroup_memoriesOk _ (explodeGroup_memoriesOk _ h (Nat.zero_le 4)) le_rfl)
  | implode =>
    exact State.memoriesOk_congr rfl rfl rfl
      (implodeGroup_memoriesOk _ (implodeGroup_memoriesOk _ h (Nat.zero_le 4)) le_rfl)
  | _ => exact State.memoriesOk_congr (by simp [commandEffect]) (by simp [commandEffect]) (by simp [commandEffect]) h

/-- The blocks an abort of a legal command leaves unspecified lie inside the memories (R261). -/
theorem abortRunning_memoriesOk {s : State} (h : s.memoriesOk) (hwf : ∀ i, s.running = some i → i.wellFormed = true) :
    (abortRunning s).memoriesOk := by
  unfold abortRunning
  split
  case h_1 => exact h
  case h_2 i hr =>
    refine State.memoriesOk_congr rfl rfl rfl (State.leaveUnspecified_memoriesOk _ _ h ?_)
    have hi := hwf i hr
    cases i with
    | stx d b | stk k b =>
      obtain ⟨-, hb⟩ := Bool.and_eq_true_iff.1 hi
      have := (isStateBlock_iff b).1 hb
      exact State.blockAddress_le_state (i := b.toNat + 1) (by omega)
    | explode =>
      simpa [writtenBlocks, blockAddress] using State.blockAddress_le_pad (s := s) le_rfl
    | _ => simp [writtenBlocks, blockAddress, State.spaceSize]

/-! ### The status bits -/

/-- The consistency of the fault bits is kept where they stay as they are and `BUSY` is not raised on a faulted engine. -/
theorem State.statusLegal_of_sameControl {s t : State} (hc : sameControl s t) (h : s.statusLegal)
    (hb : t.status.busy = true → s.status.fault = false) : t.statusLegal := by
  obtain ⟨hfault, hcause, hcmd, -⟩ := hc
  obtain ⟨faultIff, -, cmdZero⟩ := h
  rw [State.statusLegal, hfault, hcause, hcmd]
  exact ⟨faultIff, fun ⟨busy, fault⟩ => by simp [hb busy] at fault, cmdZero⟩

/-! ### What the invariant says of an idle and of a busy engine -/

theorem State.Inv.memoriesOk {s : State} (h : s.Inv) : s.memoriesOk := State.memoriesOk_iff.2 h.memory

/-- A running engine is not faulted (R32). -/
theorem State.Inv.unfaulted {s : State} (h : s.Inv) (busy : s.status.busy = true) : s.status.fault = false := by
  obtain ⟨-, notBoth, -⟩ := h.status
  simpa [busy] using notBoth

/-- An idle engine has no command in progress, and its sequencer rests. -/
theorem State.Inv.of_not_busy {s : State} (h : s.Inv) (idle : s.status.busy = false) :
    s.running = none ∧ s.seq = restingSequencer := by
  have hr := h.running
  unfold State.runningLegal at hr
  split at hr
  case h_1 hnone => exact ⟨hnone, hr.2⟩
  case h_2 => simp [idle] at hr

/-- A command in progress is legal, and the sequencer is in step with it. -/
theorem State.Inv.of_running {s : State} {i : Instr} (h : s.Inv) (hi : s.running = some i) :
    s.status.busy = true ∧ i.wellFormed = true ∧ s.sequencerLegal i := by
  have hr := h.running
  unfold State.runningLegal at hr
  rwa [hi] at hr

/-- The machine that the sequencer runs is that of the command in progress; a component command has none. -/
theorem State.sequencerLegal_op {s : State} {i : Instr} (h : s.sequencerLegal i) :
    (s.seq.op = .explode → i = .explode) ∧ (s.seq.op = .implode → i = .implode) ∧
    (s.seq.op = .none → s.seq = restingSequencer ∧ sourcesHeld i s = true) := by
  cases i with
  | explode =>
    obtain ⟨hop, -⟩ := h
    simp [hop]
  | implode =>
    obtain ⟨hop, -⟩ := h
    simp [hop]
  | _ =>
    obtain ⟨hseq, held⟩ := h
    simp [hseq, restingSequencer, held]

/-- A busy engine has a command in progress. -/
theorem State.Inv.exists_running {s : State} (h : s.Inv) (busy : s.status.busy = true) :
    ∃ i, s.running = some i := by
  rcases Option.eq_none_or_eq_some s.running with hr | hr
  · have hrun := h.running
    simp [State.runningLegal, hr, busy] at hrun
  · exact hr

/-- The invariant of an engine that has become idle, its fault bits as before. -/
theorem State.Inv.idle_of {s t : State} (h : s.Inv) (hc : sameControl s t) (hm : t.memoriesOk)
    (idle : t.status.busy = false) (hr : t.running = none) (hq : t.seq = restingSequencer) : t.Inv where
  memory := State.memoriesOk_iff.1 hm
  status := State.statusLegal_of_sameControl hc h.status (by simp [idle])
  running := by simp only [State.runningLegal, hr]; exact ⟨idle, hq⟩

/-- The invariant of an engine that runs a command, its fault bits as before. -/
theorem State.Inv.busy_of {s t : State} {i : Instr} (h : s.Inv) (hc : sameControl s t) (hm : t.memoriesOk)
    (unfaulted : s.status.fault = false) (busy : t.status.busy = true) (hr : t.running = some i)
    (hwf : i.wellFormed = true) (hq : t.sequencerLegal i) : t.Inv where
  memory := State.memoriesOk_iff.1 hm
  status := State.statusLegal_of_sameControl hc h.status (fun _ => unfaulted)
  running := by simp only [State.runningLegal, hr]; exact ⟨busy, hwf, hq⟩

/-! ### Issue, completion and fault -/

theorem acceptCommand_inv {i : Instr} {s : State} (h : s.Inv) (idle : s.status.busy = false)
    (unfaulted : s.status.fault = false) (hwf : i.wellFormed = true) (held : sourcesHeld i s = true) :
    (acceptCommand i s).Inv := by
  obtain ⟨-, hseq⟩ := h.of_not_busy idle
  refine h.busy_of (i := i) (by simp [sameControl]) (State.memoriesOk_congr rfl rfl rfl h.memoriesOk) unfaulted rfl rfl
    hwf ?_
  cases i with
  | explode | implode =>
    simp [State.sequencerLegal, State.sweepLegal, startSequencer, hseq, restingSequencer]
  | _ => exact ⟨hseq, held⟩

theorem completed_inv {i : Instr} {s : State} (h : s.Inv) (hseq : s.seq = restingSequencer)
    (hwf : i.wellFormed = true) : (completeCommand (commandEffect i (acceptCommand i s))).Inv := by
  have accepted : (acceptCommand i s).memoriesOk := State.memoriesOk_congr rfl rfl rfl h.memoriesOk
  exact h.idle_of (sameControl_completed i s)
    (State.memoriesOk_congr rfl rfl rfl (commandEffect_memoriesOk hwf accepted)) rfl rfl
    (seq_commandEffect_acceptCommand hseq)

theorem raiseFault_inv {c : Cause} {w : Word} {s : State} (h : s.Inv) (idle : s.status.busy = false)
    (hc : c ≠ .none) : (raiseFault c w s).Inv where
  memory := h.memory
  status := by simp [State.statusLegal, hc]
  running := by
    obtain ⟨hr, hseq⟩ := h.of_not_busy idle
    simp [State.runningLegal, hr, hseq]

/-! ### Reset -/

theorem State.memoriesOk_resetInput {s : State} (h : s.Inv) : (resetInput s).memoriesOk := by
  refine State.memoriesOk_congr rfl rfl rfl (abortRunning_memoriesOk h.memoriesOk fun i hi => ?_)
  obtain ⟨-, hwf, -⟩ := h.of_running hi
  exact hwf

theorem resetInput_inv {s : State} (h : s.Inv) : (resetInput s).Inv where
  memory := State.memoriesOk_iff.1 (State.memoriesOk_resetInput h)
  status := by simp [State.statusLegal, resetInput]
  running := by simp [State.runningLegal, resetInput, restingSequencer]

end Sys2Proof.Machine
end

section
/-! SUPPORT. Every row of the expander and of the folder, and so every move of the machine, keeps the invariant (R173, R193). -/

namespace Sys2Proof.Machine

/-! ### The registers that a running machine holds -/

/-- Writing ten round keys from `K[0]` leaves every round key with a value. -/
theorem State.keysHeld_setKeys (s : State) {vs : List Block} (hl : vs.length = 10) : (s.setKeys 0 vs).keysHeld := by
  intro j hj
  obtain ⟨-, hj⟩ := mem_indices.1 hj
  have held := s.key_setKeys_inside (k := 0) j vs (by omega) (by omega)
  rw [Nat.zero_add] at held
  simp [held]

/-- Writing four lanes from `X[0]` leaves them with values. -/
theorem State.lanesHeld_setLanes (s : State) {vs : List Block} (hl : vs.length = 4) : (s.setLanes 0 vs).lanesHeld 0 4 := by
  intro j hj
  obtain ⟨-, hj⟩ := mem_indices.1 hj
  have held := s.lane_setLanes_inside (d := 0) j vs (by omega) (by omega)
  rw [Nat.zero_add] at held
  simp [held]

theorem State.keysHeld_congr {s t : State} (h : t.k = s.k) (held : s.keysHeld) : t.keysHeld := fun j hj => by
  rw [State.key_congr h]
  exact held j hj

theorem State.lanesHeld_congr {s t : State} {d n : Nat} (h : t.x = s.x) (held : s.lanesHeld d n) : t.lanesHeld d n :=
  fun j hj => by
    rw [State.lane_congr h]
    exact held j hj

/-! ### The rows -/

/-- What the operations inside a row keep: everything of the invariant but the sequencer and the registers. -/
structure RowFrame (s u : State) : Prop where
  control : sameControl s u
  status : u.status = s.status
  running : u.running = s.running
  memories : s.memoriesOk → u.memoriesOk

theorem RowFrame.refl (s : State) : RowFrame s s := ⟨by simp [sameControl], rfl, rfl, id⟩

theorem RowFrame.trans {s u v : State} (hsu : RowFrame s u) (huv : RowFrame u v) : RowFrame s v where
  control := hsu.control.trans huv.control
  status := huv.status.trans hsu.status
  running := huv.running.trans hsu.running
  memories := huv.memories ∘ hsu.memories

theorem rowFrame_setLanes (s : State) (d : Nat) (vs : List Block) : RowFrame s (s.setLanes d vs) where
  control := by simp [sameControl]
  status := s.setLanes_status d vs
  running := s.setLanes_running d vs
  memories := State.memoriesOk_congr (s.setLanes_stateMem d vs) (s.setLanes_padMem d vs) (s.setLanes_geometry d vs)

theorem rowFrame_setKeys (s : State) (k : Nat) (vs : List Block) : RowFrame s (s.setKeys k vs) where
  control := by simp [sameControl]
  status := s.setKeys_status k vs
  running := s.setKeys_running k vs
  memories := State.memoriesOk_congr (s.setKeys_stateMem k vs) (s.setKeys_padMem k vs) (s.setKeys_geometry k vs)

theorem rowFrame_writeBlocks {s : State} (sp : Space) {i : Nat} (vs : List Block)
    (fits : blockAddress (i + vs.length) ≤ s.spaceSize sp) : RowFrame s (s.writeBlocks sp i vs) where
  control := sameControl_writeBlocks s sp i vs
  status := s.writeBlocks_status sp i vs
  running := s.writeBlocks_running sp i vs
  memories h := State.writeBlocks_memoriesOk sp vs h fits

/-- The invariant after a row that does not end the command in progress. -/
theorem State.Inv.afterRow {s u : State} {q : Sequencer} {i : Instr} (h : s.Inv) (hr : s.running = some i)
    (hu : RowFrame s u) (hq : { u with seq := q }.sequencerLegal i) : { u with seq := q }.Inv := by
  obtain ⟨busy, hwf, -⟩ := h.of_running hr
  exact h.busy_of hu.control (State.memoriesOk_congr rfl rfl rfl (hu.memories h.memoriesOk)) (h.unfaulted busy)
    (hu.status ▸ busy) (hu.running.trans hr) hwf hq

/-- The invariant after the row that ends the command in progress. -/
theorem State.Inv.afterLastRow {s u : State} (h : s.Inv) (hu : RowFrame s u) :
    (completeCommand u.destroyRegisters.idleSequencer).Inv :=
  h.idle_of (hu.control.trans ((sameControl_destroyRegisters_idleSequencer u).trans (sameControl_completeCommand _)))
    (State.memoriesOk_congr rfl rfl rfl (hu.memories h.memoriesOk)) rfl rfl rfl

/-- What the invariant asks of the sequencer and the registers after a row of the expander. -/
theorem explode_afterRow {s u : State} {q : Sequencer} (h : s.Inv) (hr : s.running = some .explode)
    (hu : RowFrame s u) (hop : q.op = .explode)
    (hphase : q.phase ∈ [Phase.keygen, .loadA, .sweepA, .loadB, .sweepB]) (hmod : q.idx % 8 = 0)
    (hle : q.idx ≤ s.geometry.blocks) (keys : q.phase ≠ .keygen → u.keysHeld)
    (lanes : q.phase ∈ [Phase.sweepA, .sweepB] → u.lanesHeld 0 4) : { u with seq := q }.Inv :=
  h.afterRow hr hu ⟨hop, hphase, hmod, hu.control.geometry ▸ hle, keys, lanes⟩

/-- What the invariant asks of the sequencer and the registers after a row of the folder. -/
theorem implode_afterRow {s u : State} {q : Sequencer} (h : s.Inv) (hr : s.running = some .implode)
    (hu : RowFrame s u) (hop : q.op = .implode) (hphase : q.phase ≠ .idle) (hmod : q.idx % 8 = 0)
    (hle : q.idx ≤ s.geometry.blocks) (keys : q.phase ≠ .keygen → u.keysHeld)
    (lanes : q.phase ∈ [Phase.sweepA, .storeA, .sweepB, .storeB] → u.lanesHeld 0 4) : { u with seq := q }.Inv :=
  h.afterRow hr hu ⟨hop, hphase, hmod, hu.control.geometry ▸ hle, keys, lanes⟩

/-- `IDX`, a multiple of 8 below `N`, is still in range after a sweep row, because `N` is a multiple of 8 (R28). -/
theorem next_idx_le {g : Geometry} {idx : Nat} (hmod : idx % 8 = 0) (more : idx < g.blocks) : idx + 8 ≤ g.blocks := by
  have := g.blocks_mod_eight
  omega

/-- A sweep row of the expander keeps the invariant. -/
theorem explodeSweepRow_inv {s : State} {off : Nat} (h : s.Inv) (hr : s.running = some .explode) (hoff : off ≤ 4)
    (hphase : s.seq.phase ≠ .keygen) (more : s.seq.idx < s.geometry.blocks) : (explodeSweepRow off s).Inv := by
  obtain ⟨-, -, hop, hin, hmod, -, keys, -⟩ := h.of_running hr
  have hidx := next_idx_le hmod more
  have stored := rowFrame_writeBlocks (s := s.setLanes 0 (net (s.lanes 0 4) s.keys)) .pad (i := s.seq.idx + off)
    (net (s.lanes 0 4) s.keys) (State.blockAddress_le_pad (by simp; omega))
  refine explode_afterRow h hr ((rowFrame_setLanes s 0 _).trans stored) hop hin (by simp [hmod]) hidx (fun _ => ?_)
    (fun _ => ?_)
  · exact State.keysHeld_congr (by simp) (keys hphase)
  · exact State.lanesHeld_congr (State.writeBlocks_x _ _ _ _) (s.lanesHeld_setLanes (by simp))

/-- Every row of the expander keeps the invariant (R173). -/
theorem explodeRow_inv {s : State} (h : s.Inv) (hr : s.running = some .explode) : (explodeRow s).Inv := by
  obtain ⟨-, -, hop, hin, hmod, hle, keys, lanes⟩ := h.of_running hr
  cases phase : s.seq.phase with
  | keygen =>
    rw [explodeRow_keygen phase]
    exact explode_afterRow h hr (rowFrame_setKeys s 0 _) hop (by simp) hmod hle
      (fun _ => s.keysHeld_setKeys (length_keyExpand _ _)) (by simp)
  | loadA =>
    rw [explodeRow_loadA phase]
    exact explode_afterRow h hr (rowFrame_setLanes s 0 _) hop (by simp) rfl (Nat.zero_le _)
      (fun _ => State.keysHeld_congr (by simp) (keys (by simp [phase])))
      (fun _ => s.lanesHeld_setLanes (by simp))
  | sweepA =>
    by_cases more : s.seq.idx < s.geometry.blocks
    · rw [explodeRow_sweepA phase more]
      exact explodeSweepRow_inv h hr (Nat.zero_le 4) (by simp [phase]) more
    · rw [explodeRow_sweepA_end phase more]
      exact explode_afterRow h hr (RowFrame.refl s) hop (by simp) hmod hle (fun _ => keys (by simp [phase])) (by simp)
  | loadB =>
    rw [explodeRow_loadB phase]
    exact explode_afterRow h hr (rowFrame_setLanes s 0 _) hop (by simp) rfl (Nat.zero_le _)
      (fun _ => State.keysHeld_congr (by simp) (keys (by simp [phase])))
      (fun _ => s.lanesHeld_setLanes (by simp))
  | sweepB =>
    by_cases more : s.seq.idx < s.geometry.blocks
    · rw [explodeRow_sweepB phase more]
      exact explodeSweepRow_inv h hr le_rfl (by simp [phase]) more
    · rw [explodeRow_sweepB_end phase more]
      exact h.afterLastRow (RowFrame.refl s)
  | storeA | storeB | idle => simp [phase] at hin

/-- A sweep row of the folder keeps the invariant. -/
theorem implodeSweepRow_inv {s : State} (off : Nat) (h : s.Inv) (hr : s.running = some .implode)
    (hphase : s.seq.phase ≠ .keygen) (more : s.seq.idx < s.geometry.blocks) : (implodeSweepRow off s).Inv := by
  obtain ⟨-, -, hop, hin, hmod, -, keys, -⟩ := h.of_running hr
  exact implode_afterRow h hr (rowFrame_setLanes s 0 _) hop hin (by simp [hmod]) (next_idx_le hmod more)
    (fun _ => State.keysHeld_congr (by simp) (keys hphase)) (fun _ => s.lanesHeld_setLanes (by simp))

/-- The four lanes of a group fit in `STATE` from block 8 on, and so from any block before it. -/
theorem rowFrame_storeLanes (s : State) {b : Nat} (hb : b ≤ 8) : RowFrame s (s.writeBlocks .state b (s.lanes 0 4)) :=
  rowFrame_writeBlocks .state (s.lanes 0 4) (State.blockAddress_le_state (by simp; omega))

/-- Every row of the folder keeps the invariant (R193). -/
theorem implodeRow_inv {s : State} (h : s.Inv) (hr : s.running = some .implode) : (implodeRow s).Inv := by
  obtain ⟨-, -, hop, hin, hmod, hle, keys, lanes⟩ := h.of_running hr
  cases phase : s.seq.phase with
  | keygen =>
    rw [implodeRow_keygen phase]
    exact implode_afterRow h hr (rowFrame_setKeys s 0 _) hop (by simp) hmod hle
      (fun _ => s.keysHeld_setKeys (length_keyExpand _ _)) (by simp)
  | loadA =>
    rw [implodeRow_loadA phase]
    exact implode_afterRow h hr (rowFrame_setLanes s 0 _) hop (by simp) rfl (Nat.zero_le _)
      (fun _ => State.keysHeld_congr (by simp) (keys (by simp [phase])))
      (fun _ => s.lanesHeld_setLanes (by simp))
  | sweepA =>
    by_cases more : s.seq.idx < s.geometry.blocks
    · rw [implodeRow_sweepA phase more]
      exact implodeSweepRow_inv 0 h hr (by simp [phase]) more
    · rw [implodeRow_sweepA_end phase more]
      exact implode_afterRow h hr (RowFrame.refl s) hop (by simp) hmod hle (fun _ => keys (by simp [phase]))
        (fun _ => lanes (by simp [phase]))
  | storeA =>
    rw [implodeRow_storeA phase]
    exact implode_afterRow h hr (rowFrame_storeLanes s (by omega)) hop (by simp) hmod hle
      (fun _ => State.keysHeld_congr (State.writeBlocks_k _ _ _ _) (keys (by simp [phase]))) (by simp)
  | loadB =>
    rw [implodeRow_loadB phase]
    exact implode_afterRow h hr (rowFrame_setLanes s 0 _) hop (by simp) rfl (Nat.zero_le _)
      (fun _ => State.keysHeld_congr (by simp) (keys (by simp [phase])))
      (fun _ => s.lanesHeld_setLanes (by simp))
  | sweepB =>
    by_cases more : s.seq.idx < s.geometry.blocks
    · rw [implodeRow_sweepB phase more]
      exact implodeSweepRow_inv 4 h hr (by simp [phase]) more
    · rw [implodeRow_sweepB_end phase more]
      exact implode_afterRow h hr (RowFrame.refl s) hop (by simp) hmod hle (fun _ => keys (by simp [phase]))
        (fun _ => lanes (by simp [phase]))
  | storeB =>
    rw [implodeRow_storeB phase]
    exact h.afterLastRow (rowFrame_storeLanes s le_rfl)
  | idle => exact absurd phase hin

/-! ### Every move -/

/-- A micro-step of an engine that meets the invariant keeps it: a row of the machine that runs, or the whole of a component
command, whose sources still hold values. -/
theorem engineStep_inv {s t : State} (h : s.Inv) (busy : s.status.busy = true) (hstep : engineStep s = .next t) :
    t.Inv := by
  obtain ⟨i, hr⟩ := h.exists_running busy
  obtain ⟨-, hwf, hseq⟩ := h.of_running hr
  obtain ⟨opExplode, opImplode, opNone⟩ := State.sequencerLegal_op hseq
  cases op : s.seq.op with
  | explode =>
    rw [engineStep_explode op] at hstep
    cases hstep
    exact explodeRow_inv h (opExplode op ▸ hr)
  | implode =>
    rw [engineStep_implode op] at hstep
    cases hstep
    exact implodeRow_inv h (opImplode op ▸ hr)
  | none =>
    obtain ⟨rests, held⟩ := opNone op
    rw [engineStep_component op hr, exec_completes hwf held] at hstep
    cases hstep
    exact completed_inv h rests hwf

/-- The queue of the host's actions is no part of the invariant. -/
theorem State.Inv.withPending {s : State} (h : s.Inv) (q : List HostAction) : { s with pending := q }.Inv :=
  ⟨h.memory, h.status, h.running⟩

/-- A byte write by the host touches nothing of the invariant but the memory it lies in. -/
theorem writeBytes_inv {s : State} {sp : Space} {a : Nat} {bytes : List Byte} (h : s.Inv)
    (fits : a + bytes.length ≤ s.spaceSize sp) : (s.writeBytes sp a bytes).Inv := by
  have written := State.memoriesOk_iff.1 (State.writeBytes_memoriesOk sp bytes h.memoriesOk fits)
  obtain ⟨m, hm⟩ := s.writeBytes_eq_setMem sp a bytes
  rw [hm] at written ⊢
  cases sp with
  | state => exact ⟨written, h.status, h.running⟩
  | pad => exact ⟨written, h.status, h.running⟩

theorem Move.inv {s t : State} (hm : Move s t) (h : s.Inv) : t.Inv := by
  cases hm with
  | stay => exact h
  | microStep busy hstep => exact engineStep_inv h busy hstep
  | complete idle _ hwf _ =>
    obtain ⟨-, hseq⟩ := h.of_not_busy idle
    exact completed_inv h hseq hwf
  | accept idle unfaulted hwf held => exact acceptCommand_inv h idle unfaulted hwf held
  | takeFault idle hc => exact raiseFault_inv h idle hc
  | configure | reply => exact ⟨h.memory, h.status, h.running⟩
  | hostWrite fits => exact writeBytes_inv h fits
  | reset => exact resetInput_inv h

/-- Settles O58: every step is a move of the machine, and every move keeps the invariant. -/
theorem everyStepKeepsTheInvariant : Obligations.EveryStepKeepsTheInvariant := by
  unfold Obligations.EveryStepKeepsTheInvariant
  intro s t h hstep
  obtain ⟨q, hm⟩ := move_of_step hstep
  exact hm.inv (h.withPending q)

end Sys2Proof.Machine
end

section
/-! SUPPORT. What the invariant says of `STATUS` and the sequencer, the reset values, and what the control port reads and
takes (R27, R28, R30 to R36, R42, R260). -/

namespace Sys2Proof.Machine

/-! ### Consequences of the invariant -/

/-- Settles O60: the sequencer either rests or runs in step with `EXPLODE` or `IMPLODE`. -/
theorem sequencerIndexStaysInRange : Obligations.SequencerIndexStaysInRange := by
  unfold Obligations.SequencerIndexStaysInRange
  intro s h
  have fits : s.geometry.blocks < 2 ^ s.geometry.idxWidth := (s.geometry.idxWidth_le_iff _).mp le_rfl
  have atRest (hq : s.seq = restingSequencer) : s.seq.idx % 8 = 0 ∧ s.seq.idx ≤ s.geometry.blocks := by
    simp [hq, restingSequencer]
  suffices main : (s.seq.idx % 8 = 0 ∧ s.seq.idx ≤ s.geometry.blocks) ∧
      (s.running ≠ some .explode ∧ s.running ≠ some .implode → s.seq = restingSequencer) by
    obtain ⟨⟨hmod, hle⟩, rests⟩ := main
    exact ⟨hmod, hle, hle.trans_lt fits, rests⟩
  rcases Option.eq_none_or_eq_some s.running with hr | ⟨i, hr⟩
  · have hrun := h.running
    simp only [State.runningLegal, hr] at hrun
    obtain ⟨-, hq⟩ := hrun
    exact ⟨atRest hq, fun _ => hq⟩
  · obtain ⟨-, -, hseq⟩ := h.of_running hr
    cases i with
    | explode =>
      obtain ⟨-, -, hmod, hle, -⟩ := hseq
      exact ⟨⟨hmod, hle⟩, fun ⟨notExplode, _⟩ => absurd hr notExplode⟩
    | implode =>
      obtain ⟨-, -, hmod, hle, -⟩ := hseq
      exact ⟨⟨hmod, hle⟩, fun ⟨_, notImplode⟩ => absurd hr notImplode⟩
    | _ =>
      obtain ⟨hq, -⟩ := hseq
      exact ⟨atRest hq, fun _ => hq⟩

/-- Settles O47: without a fault only `BUSY` can be 1, and with one `BUSY` is 0 and the cause is one of two. -/
theorem statusReadsALegalValue : Obligations.StatusReadsALegalValue := by
  unfold Obligations.StatusReadsALegalValue
  intro s h
  obtain ⟨faultIff, notBoth, -⟩ := h.status
  rcases hs : s.status with ⟨busy, fault, cause⟩
  rw [hs] at faultIff notBoth
  cases fault with
  | false =>
    obtain rfl : cause = .none := by simpa using faultIff
    cases busy <;> decide
  | true =>
    obtain rfl : busy = false := by simpa using notBoth
    cases cause with
    | none => simp at faultIff
    | illegalCmd | noValue => decide

/-! ### Reset -/

/-- The register values of R42. -/
theorem engineRegistersReset_of {t : State} (hx : t.x = Vector.replicate 8 none) (hk : t.k = Vector.replicate 10 none)
    (hq : t.seq = restingSequencer) (hr : t.running = none) (hs : t.status = ⟨false, false, .none⟩)
    (hp : t.prefetchEn = false) (hf : t.faultCmd = 0#32) : engineRegistersReset t := by
  refine ⟨fun j => ?_, fun j => ?_, hq, hr, by rw [hs]; decide, by rw [hp]; decide, hf, rfl⟩
  · rw [State.lane_congr (s := t.destroyRegisters) hx, State.lane_destroyRegisters]
  · rw [State.key_congr (s := t.destroyRegisters) hk, State.key_destroyRegisters]

theorem engineRegistersReset_resetEngine (s : State) : engineRegistersReset s.resetEngine :=
  engineRegistersReset_of rfl rfl rfl rfl rfl rfl rfl

theorem engineRegistersReset_powerUp (g : Geometry) : engineRegistersReset (State.powerUp g) :=
  engineRegistersReset_of rfl rfl rfl rfl rfl rfl rfl

/-- Reset with no command in progress aborts nothing. -/
theorem resetInput_of_not_running {s : State} (h : s.running = none) : resetInput s = s.resetEngine := by
  simp only [resetInput, abortRunning, h]

/-- A byte that nothing has written reads as its free power-up value (R40, log 4). -/
theorem readByte_powerUp (g : Geometry) (sp : Space) (a : Nat) :
    (State.powerUp g).readByte sp a = Config.powerUpByte sp a := by
  cases sp <;> rfl

/-- The engine's reset, taken from the host's queue, leaves every byte of memory (R260). -/
theorem sameMemories_resetEngine (s : State) (rest : List HostAction) :
    sameMemories s { s with pending := rest }.resetEngine := by
  intro sp a
  cases sp <;> rfl

/-- Settles O54: with no command to abort, reset is the engine's reset, which leaves the memories. -/
theorem resetGivesTheResetValues : Obligations.ResetGivesTheResetValues := by
  unfold Obligations.ResetGivesTheResetValues
  refine ⟨fun s rest hp hr => ?reset, fun g => ?powerUp, rfl, rfl⟩
  case reset =>
    refine ⟨{ s with pending := rest }.resetEngine, ?_, engineRegistersReset_resetEngine _, ⟨rfl, rfl⟩,
      sameMemories_resetEngine s rest, rfl, rfl⟩
    rw [step_action hp]
    exact congrArg Host.Outcome.next (resetInput_of_not_running (s := { s with pending := rest }) hr)
  case powerUp => exact ⟨engineRegistersReset_powerUp g, ⟨rfl, rfl⟩, rfl, readByte_powerUp g⟩

/-- The invariant holds at power-up, in every configuration. -/
theorem powerUp_inv (g : Geometry) : (State.powerUp g).Inv where
  memory := ⟨List.Pairwise.nil, List.Pairwise.nil, nofun, nofun⟩
  status := by simp [State.powerUp, State.statusLegal]
  running := ⟨rfl, rfl⟩

/-- Settles O59: empty memories, no fault, no command in progress. -/
theorem resetMeetsTheInvariant : Obligations.ResetMeetsTheInvariant :=
  ⟨powerUp_inv Config.referenceGeometry, powerUp_inv⟩

/-! ### The control port -/

/-- The bits of `STATUS` (R32). -/
theorem statusWord_fields (t : Status) :
    (statusWord t).getLsbD 0 = t.busy ∧ (statusWord t).getLsbD 1 = t.fault ∧ (statusWord t).extractLsb' 2 2 = 0#2 ∧
    (statusWord t).extractLsb' 4 4 = causeCode t.cause ∧ (statusWord t).extractLsb' 8 24 = 0#24 := by
  obtain ⟨_ | _, _ | _, _ | _ | _⟩ := t <;> decide

/-- The bits of `CFG` (R34). -/
theorem cfgWord_fields (p : Bool) : (cfgWord p).getLsbD 0 = p ∧ (cfgWord p).extractLsb' 1 31 = 0#31 := by
  cases p <;> decide

/-- `CFG` reads back bit 0 of the word written to it (R34). -/
theorem cfgWord_getLsbD_zero (v : Word) : cfgWord (v.getLsbD 0) = v &&& 1#32 := by
  rw [BitVec.and_one_eq_setWidth_ofBool_getLsbD]
  cases v.getLsbD 0 <;> rfl

/-- `MEMBLKS` reads `N`, which fits its 32 bits (R35). -/
theorem toNat_memblksWord (g : Geometry) : (memblksWord g).toNat = g.blocks :=
  (BitVec.toNat_ofNat _ _).trans (Nat.mod_eq_of_lt g.blocks_lt)

/-- An offset with no readable register, or a width other than 32, reads 0 (R30, R31). -/
theorem ctlValue_no_register {s : State} {offset width : Nat} (h : width ≠ 32 ∨ offset ∉ [0x04, 0x08, 0x0C, 0x10]) :
    ctlValue s offset width = 0#32 := by
  unfold ctlValue
  rcases h with hw | ho
  · rw [if_neg hw]
  · simp only [List.mem_cons, List.not_mem_nil, or_false, not_or] at ho
    obtain ⟨h4, h8, hC, h10⟩ := ho
    simp only [h4, h8, hC, h10, if_false, ite_self]

/-- Settles O45: the read replies with `ctlValue`, register by register. -/
theorem controlReadsReturnTheRegisters : Obligations.ControlReadsReturnTheRegisters := by
  unfold Obligations.ControlReadsReturnTheRegisters
  intro s offset width rest hp
  refine ⟨ctlValue s offset width, step_action hp, ctlValue_no_register, ?status, ?cfg, ?memblks, ?faultcmd⟩
  case status =>
    rintro rfl rfl
    exact statusWord_fields s.status
  case cfg =>
    rintro rfl rfl
    exact cfgWord_fields s.prefetchEn
  case memblks =>
    rintro rfl rfl
    exact toNat_memblksWord s.geometry
  case faultcmd =>
    rintro rfl rfl
    rfl

/-- Settles O46: a write to `CFG` stores bit 0; a write that the port never holds off has no register behind it. -/
theorem controlWritesReachOnlyCmdAndCfg : Obligations.ControlWritesReachOnlyCmdAndCfg := by
  unfold Obligations.ControlWritesReachOnlyCmdAndCfg
  refine ⟨fun s v rest hp idle => ⟨?cfg, cfgWord_getLsbD_zero v⟩, fun s offset width v rest hp noRegister => ?ignored⟩
  case cfg =>
    rw [step_action hp]
    simp [hostStep, idle, ctlWrite]
  case ignored =>
    have free : heldOff offset width = false := by
      rcases noRegister with hw | ⟨h0, h8⟩
      · simp [heldOff, hw]
      · simp [heldOff, h0, h8]
    rw [step_action hp]
    simp [hostStep, free, ctlWrite_ignored]

end Sys2Proof.Machine
end

section
/-! SUPPORT. What `EXPLODE` leaves in `PAD` and `IMPLODE` in `STATE[4..11]`, block by block, by the closed forms of R176 and
R196; so that both depend on their memory inputs and `N` alone (R26, R175, R197). -/

namespace Sys2Proof.Machine

/-! ### Blocks after consecutive block writes -/

/-- Every block outside consecutive written blocks reads as before. -/
theorem State.readBlock_writeBlocks_outside (s : State) (sp sp' : Space) (i b : Nat) (vs : List Block)
    (h : sp' = sp → b < i ∨ i + vs.length ≤ b) : (s.writeBlocks sp i vs).readBlock sp' b = s.readBlock sp' b :=
  State.readBlock_congr fun j hj => State.readByte_writeBlocks_outside _ _ _ _ _ _ fun hs => by
    have := h hs
    simp only [blockAddress]
    omega

theorem State.getElem?_readBlocks (s : State) (sp : Space) (i : Nat) {n k : Nat} (h : k < n) :
    (s.readBlocks sp i n)[k]? = some (s.readBlock sp (i + k)) := by
  simp [State.readBlocks, indices, h]

/-- The network on a lane of a set (R152). -/
theorem getElem?_net {lanes : List Block} {k : Nat} {x : Block} (keys : List Block) (h : lanes[k]? = some x) :
    (net lanes keys)[k]? = some (netLane keys x) := by
  rw [net_eq_map, List.getElem?_map, h]
  rfl

/-! ### `EXPLODE` -/

/-- A sweep leaves every block of `PAD` outside its lane group's quadruplets as it was. -/
theorem readBlock_explodeSweep_outside (keys : List Block) {off n i q : Nat} {lanes : List Block} (s : State)
    (hlen : lanes.length = 4) (h : ∀ m < n, q < i + 8 * m + off ∨ i + 8 * m + off + 4 ≤ q) :
    (explodeSweep keys off n i lanes s).readBlock .pad q = s.readBlock .pad q := by
  induction n generalizing i lanes s with
  | zero => rfl
  | succ n ih =>
    have here := h 0 (Nat.succ_pos n)
    rw [explodeSweep, ih _ (by rw [length_net, hlen]) fun m hm => ?later,
      State.readBlock_writeBlocks_outside _ _ _ _ _ _ fun _ => by rw [length_net, hlen]; omega]
    case later =>
      have := h (m + 1) (by omega)
      omega

/-- After a sweep, lane `j` of window `m` stands in `PAD` as the network applied `m + 1` times to the lane's start. -/
theorem readBlock_explodeSweep_inside (keys : List Block) {off n i m j : Nat} {lanes : List Block} {x : Block} (s : State)
    (hlen : lanes.length = 4) (hm : m < n) (hj : lanes[j]? = some x) :
    (explodeSweep keys off n i lanes s).readBlock .pad (i + 8 * m + off + j) = (netLane keys)^[m + 1] x := by
  have hj4 : j < 4 := hlen ▸ (List.getElem?_eq_some_iff.1 hj).1
  have hnet := getElem?_net keys hj
  induction n generalizing i lanes s m x with
  | zero => omega
  | succ n ih =>
    rw [explodeSweep]
    cases m with
    | zero =>
      obtain ⟨hlt, hval⟩ := List.getElem?_eq_some_iff.1 hnet
      rw [readBlock_explodeSweep_outside _ _ (by rw [length_net, hlen]) fun m' _ => by omega,
        show i + 8 * 0 + off + j = i + off + j by omega, State.readBlock_writeBlocks_inside _ _ _ _ _ hlt, hval]
      rfl
    | succ m =>
      have later := ih (i := i + 8) (m := m) (s.writeBlocks .pad (i + off) (net lanes keys))
        (by rw [length_net, hlen]) (by omega) hnet (getElem?_net keys hnet)
      rw [show i + 8 * (m + 1) + off + j = i + 8 + 8 * m + off + j by omega, later]
      rfl

/-- A lane group's pass leaves the other group's blocks of `PAD` as they were. -/
theorem readBlock_explodeGroup_outside (keys : List Block) {off q : Nat} (s : State)
    (h : ∀ m, q < 8 * m + off ∨ 8 * m + off + 4 ≤ q) :
    (explodeGroup keys off s).readBlock .pad q = s.readBlock .pad q :=
  readBlock_explodeSweep_outside keys s (s.length_readBlocks .state (4 + off) 4) fun m _ => by
    have := h m
    omega

/-- A lane group's pass fills its blocks of every window. -/
theorem readBlock_explodeGroup_inside (keys : List Block) {off m j : Nat} (s : State) (hm : m < s.geometry.windows)
    (hj : j < 4) : (explodeGroup keys off s).readBlock .pad (8 * m + off + j) =
      (netLane keys)^[m + 1] (s.readBlock .state (4 + off + j)) := by
  have inside := readBlock_explodeSweep_inside (i := 0) (off := off) keys s (s.length_readBlocks .state (4 + off) 4) hm
    (s.getElem?_readBlocks .state (4 + off) hj)
  rwa [Nat.zero_add] at inside

/-- The effect of `EXPLODE` fills `PAD` by the closed form of R176. -/
theorem readBlock_pad_explodeEffect (s : State) {q : Nat} (hq : q < s.geometry.blocks) :
    (explodeEffect s).readBlock .pad q = explodedBlock (stateBlocks s) q := by
  have hm : q / 8 < s.geometry.windows := by rw [Geometry.blocks] at hq; omega
  rw [explodeEffect_eq, readBlock_destroyRegisters_idleSequencer]
  rcases Nat.lt_or_ge (q % 8) 4 with groupA | groupB
  · have inside := readBlock_explodeGroup_inside (off := 0) (j := q % 8)
      (keyExpand (s.readBlock .state 0) (s.readBlock .state 1)) s hm groupA
    rw [show 8 * (q / 8) + 0 + q % 8 = q by omega] at inside
    rw [readBlock_explodeGroup_outside _ _ fun m => by omega, inside]
    rfl
  · have inside := readBlock_explodeGroup_inside (off := 4) (j := q % 8 - 4)
      (keyExpand (s.readBlock .state 0) (s.readBlock .state 1))
      (explodeGroup (keyExpand (s.readBlock .state 0) (s.readBlock .state 1)) 0 s)
      (by rwa [explodeGroup_geometry]) (by omega)
    rw [show 8 * (q / 8) + 4 + (q % 8 - 4) = q by omega, readBlock_state_explodeGroup,
      show 4 + 4 + (q % 8 - 4) = 4 + q % 8 by omega] at inside
    rw [inside]
    rfl

/-- What `EXPLODE` leaves in `PAD` (R172, R176). -/
theorem readBlock_pad_of_explode {s t : State} (h : exec .explode s = .next t) {q : Nat} (hq : q < s.geometry.blocks) :
    t.readBlock .pad q = explodedBlock (stateBlocks s) q := by
  rw [exec_completes rfl rfl] at h
  cases h
  exact readBlock_pad_explodeEffect (acceptCommand .explode s) hq

/-- The closed form of R176 reads its two key blocks and one start block. -/
theorem explodedBlock_congr {S S' : Nat → Block} {q : Nat} (h0 : S 0 = S' 0) (h1 : S 1 = S' 1)
    (hstart : S (4 + q % 8) = S' (4 + q % 8)) : explodedBlock S q = explodedBlock S' q := by
  rw [explodedBlock, explodedBlock, h0, h1, hstart]

/-! ### `IMPLODE` -/

/-- The chain of R196 taken from its first window on. -/
theorem implodeChain_succ_front (keys : List Block) (P : Nat → Block) (j : Nat) (start : Block) (n : Nat) :
    implodeChain keys P j start (n + 1) =
      implodeChain keys (fun q => P (8 + q)) j (netLane keys (start ^^^ P j)) n := by
  induction n with
  | zero => simp [implodeChain]
  | succ n ih =>
    rw [implodeChain, ih, implodeChain, show 8 * (n + 1) + j = 8 + (8 * n + j) by omega]

/-- A chain reads block `j` of each of its windows. -/
theorem implodeChain_congr (keys : List Block) {P P' : Nat → Block} {j n : Nat} (start : Block)
    (h : ∀ m < n, P (8 * m + j) = P' (8 * m + j)) :
    implodeChain keys P j start n = implodeChain keys P' j start n := by
  induction n with
  | zero => rfl
  | succ n ih =>
    rw [implodeChain, implodeChain, ih fun m hm => h m (by omega), h n (by omega)]

theorem getElem?_xorLanes {lanes blocks : List Block} {k : Nat} {x p : Block} (hx : lanes[k]? = some x)
    (hp : blocks[k]? = some p) : (xorLanes lanes blocks)[k]? = some (x ^^^ p) := by
  simp [xorLanes, List.getElem?_zipWith, hx, hp]

/-- Lane `k` after a sweep of the folder is the chain of R196. -/
theorem getElem?_implodeSweep (keys : List Block) (pad : Nat → Block) (off n i : Nat) {lanes : List Block} {k : Nat}
    {x : Block} (hk : k < 4) (hx : lanes[k]? = some x) :
    (implodeSweep keys pad off n i lanes)[k]? =
      some (implodeChain keys (fun q => pad (i + q)) (off + k) x n) := by
  induction n generalizing i lanes x with
  | zero => exact hx
  | succ n ih =>
    have block : ((indices (i + off) 4).map pad)[k]? = some (pad (i + (off + k))) := by
      simp [indices, hk, Nat.add_assoc]
    rw [implodeSweep, ih (i + 8) (getElem?_net keys (getElem?_xorLanes hx block)), implodeChain_succ_front]
    simp only [Nat.add_assoc]

/-- A lane group's pass stores the group's chains. -/
theorem readBlock_implodeGroup_inside (keys : List Block) (off : Nat) {k : Nat} (s : State) (hk : k < 4) :
    (implodeGroup keys off s).readBlock .state (4 + off + k) =
      implodeChain keys (s.readBlock .pad) (off + k) (s.readBlock .state (4 + off + k)) s.geometry.windows := by
  have chain := getElem?_implodeSweep keys (s.readBlock .pad) off s.geometry.windows 0 hk
    (s.getElem?_readBlocks .state (4 + off) hk)
  simp only [Nat.zero_add] at chain
  obtain ⟨hlt, hval⟩ := List.getElem?_eq_some_iff.1 chain
  rw [implodeGroup, State.readBlock_writeBlocks_inside _ _ _ _ _ hlt, hval]

/-- A lane group's pass leaves the other blocks of `STATE`, and `PAD`, as they were. -/
theorem readBlock_implodeGroup_outside (keys : List Block) {off : Nat} (s : State) (sp : Space) {b : Nat}
    (h : sp = .state → b < 4 + off ∨ 8 + off ≤ b) :
    (implodeGroup keys off s).readBlock sp b = s.readBlock sp b := by
  have hlen := length_implodeSweep_le keys (s.readBlock .pad) off s.geometry.windows 0 (s.readBlocks .state (4 + off) 4)
  rw [State.length_readBlocks] at hlen
  refine State.readBlock_writeBlocks_outside _ _ _ _ _ _ fun hs => ?_
  have := h hs
  omega

/-- The effect of `IMPLODE` leaves in `STATE[4..11]` the eight chains of R196. -/
theorem readBlock_state_implodeEffect (s : State) {j : Nat} (hj : j < 8) :
    (implodeEffect s).readBlock .state (4 + j) = foldedBlock (padBlocks s) (stateBlocks s) s.geometry.windows j := by
  rw [implodeEffect_eq, readBlock_destroyRegisters_idleSequencer]
  rcases Nat.lt_or_ge j 4 with groupA | groupB
  · rw [readBlock_implodeGroup_outside _ _ _ fun _ => by omega]
    have inside := readBlock_implodeGroup_inside (keyExpand (s.readBlock .state 2) (s.readBlock .state 3)) 0 s groupA
    rw [Nat.zero_add] at inside
    exact inside
  · have inside := readBlock_implodeGroup_inside (keyExpand (s.readBlock .state 2) (s.readBlock .state 3)) 4
      (k := j - 4) (implodeGroup (keyExpand (s.readBlock .state 2) (s.readBlock .state 3)) 0 s) (by omega)
    have samePad : (implodeGroup (keyExpand (s.readBlock .state 2) (s.readBlock .state 3)) 0 s).readBlock .pad =
        s.readBlock .pad := funext fun _ => readBlock_implodeGroup_outside _ _ _ nofun
    rw [show 4 + 4 + (j - 4) = 4 + j by omega, show 4 + (j - 4) = j by omega, samePad, implodeGroup_geometry,
      readBlock_implodeGroup_outside (off := 0) _ _ _ fun _ => by omega] at inside
    exact inside

/-- What `IMPLODE` leaves in `STATE[4..11]` (R192, R196). -/
theorem readBlock_state_of_implode {s t : State} (h : exec .implode s = .next t) {j : Nat} (hj : j < 8) :
    t.readBlock .state (4 + j) = foldedBlock (padBlocks s) (stateBlocks s) s.geometry.windows j := by
  rw [exec_completes rfl rfl] at h
  cases h
  exact readBlock_state_implodeEffect (acceptCommand .implode s) hj

/-- The chains of R196 read their two key blocks, their start block and the blocks of `n` windows. -/
theorem foldedBlock_congr {P P' S S' : Nat → Block} {n j : Nat} (hj : j < 8) (h2 : S 2 = S' 2) (h3 : S 3 = S' 3)
    (hstart : S (4 + j) = S' (4 + j)) (hpad : ∀ q < 8 * n, P q = P' q) :
    foldedBlock P S n j = foldedBlock P' S' n j := by
  rw [foldedBlock, foldedBlock, h2, h3, hstart]
  exact implodeChain_congr _ _ fun m hm => hpad _ (by omega)

/-- Settles O39: the closed forms of R176 and R196 name no register, no bit of `CFG` and no other block. -/
theorem topLevelCommandsArePure : Obligations.TopLevelCommandsArePure := by
  unfold Obligations.TopLevelCommandsArePure
  refine ⟨fun s s' t t' hg hstate ht ht' q hq => ?explode, fun s s' t t' hg hstate hpad ht ht' b hb => ?implode⟩
  case explode =>
    calc t.readBlock .pad q = explodedBlock (stateBlocks s) q := readBlock_pad_of_explode ht hq
      _ = explodedBlock (stateBlocks s') q :=
        explodedBlock_congr (hstate 0 (by omega)) (hstate 1 (by omega)) (hstate (4 + q % 8) (by omega))
      _ = t'.readBlock .pad q := (readBlock_pad_of_explode ht' (hg ▸ hq)).symm
  case implode =>
    obtain ⟨j, rfl⟩ := Nat.exists_eq_add_of_le hb.1
    have hj : j < 8 := by omega
    calc t.readBlock .state (4 + j)
        = foldedBlock (padBlocks s) (stateBlocks s) s.geometry.windows j := readBlock_state_of_implode ht hj
      _ = foldedBlock (padBlocks s') (stateBlocks s') s'.geometry.windows j :=
        hg ▸ foldedBlock_congr hj (hstate 2 (by omega)) (hstate 3 (by omega)) (hstate (4 + j) (by omega)) hpad
      _ = t'.readBlock .state (4 + j) := (readBlock_state_of_implode ht' hj).symm

end Sys2Proof.Machine
end

section
/-! SUPPORT. Command words: the five fields and the word they make up (R80, R81). -/

namespace Sys2Proof

/-! ### The fields as numbers -/

theorem toNat_opField (w : Word) : (opField w).toNat = w.toNat % 256 := by
  simp [opField, BitVec.extractLsb'_toNat]

theorem toNat_aField (w : Word) : (aField w).toNat = w.toNat / 256 % 16 := by
  simp [aField, BitVec.extractLsb'_toNat, Nat.shiftRight_eq_div_pow]

theorem toNat_bField (w : Word) : (bField w).toNat = w.toNat / 4096 % 16 := by
  simp [bField, BitVec.extractLsb'_toNat, Nat.shiftRight_eq_div_pow]

theorem toNat_immField (w : Word) : (immField w).toNat = w.toNat / 65536 % 256 := by
  simp [immField, BitVec.extractLsb'_toNat, Nat.shiftRight_eq_div_pow]

/-- The reserved field stands at the top of the word, so that nothing is cut off above it. -/
theorem toNat_rsvField (w : Word) : (rsvField w).toNat = w.toNat / 16777216 := by
  have hw := w.isLt
  simp only [rsvField, BitVec.extractLsb'_toNat, Nat.shiftRight_eq_div_pow]
  omega

/-- Settles O3: the fields cut the word at 8, 12, 16 and 24 bits. -/
theorem commandWordIsTheSumOfItsFields : Obligations.CommandWordIsTheSumOfItsFields := by
  unfold Obligations.CommandWordIsTheSumOfItsFields
  intro w
  refine ⟨toNat_opField w, toNat_aField w, toNat_bField w, toNat_immField w, toNat_rsvField w, ?sum⟩
  rw [toNat_opField, toNat_aField, toNat_bField, toNat_immField, toNat_rsvField]
  omega

/-! ### The word of given fields -/

/-- Two words with the same fields are equal. -/
theorem word_eq_iff_fields {v w : Word} :
    v = w ↔ opField v = opField w ∧ aField v = aField w ∧ bField v = bField w ∧ immField v = immField w ∧
      rsvField v = rsvField w := by
  refine ⟨fun h => by simp [h], fun ⟨hop, ha, hb, himm, hrsv⟩ => BitVec.eq_of_toNat_eq ?_⟩
  obtain ⟨-, -, -, -, -, hv⟩ := commandWordIsTheSumOfItsFields v
  obtain ⟨-, -, -, -, -, hw⟩ := commandWordIsTheSumOfItsFields w
  rw [hv, hw, hop, ha, hb, himm, hrsv]

theorem toNat_commandWord (op : Byte) (a b : BitVec 4) (imm : Byte) :
    (commandWord op a b imm).toNat = op.toNat + 256 * a.toNat + 4096 * b.toNat + 65536 * imm.toNat := by
  have hop := op.isLt
  have ha := a.isLt
  have hb := b.isLt
  simp only [commandWord, BitVec.toNat_append]
  rw [← Nat.shiftLeft_add_eq_or_of_lt imm.isLt, ← Nat.shiftLeft_add_eq_or_of_lt hb, ← Nat.shiftLeft_add_eq_or_of_lt ha,
    ← Nat.shiftLeft_add_eq_or_of_lt hop]
  simp only [Nat.shiftLeft_eq, BitVec.toNat_ofNat]
  omega

/-- The fields of an assembled word are those it was assembled from, and no reserved bit is set. -/
@[simp] theorem fields_commandWord (op : Byte) (a b : BitVec 4) (imm : Byte) :
    opField (commandWord op a b imm) = op ∧ aField (commandWord op a b imm) = a ∧ bField (commandWord op a b imm) = b ∧
      immField (commandWord op a b imm) = imm ∧ rsvField (commandWord op a b imm) = 0#8 := by
  have hop := op.isLt
  have ha := a.isLt
  have hb := b.isLt
  have himm := imm.isLt
  refine ⟨BitVec.eq_of_toNat_eq ?op, BitVec.eq_of_toNat_eq ?a, BitVec.eq_of_toNat_eq ?b, BitVec.eq_of_toNat_eq ?imm,
    Laws.ReservedByteZero.commandWord_rsv op a b imm⟩
  case op => rw [toNat_opField, toNat_commandWord]; omega
  case a => rw [toNat_aField, toNat_commandWord]; omega
  case b => rw [toNat_bField, toNat_commandWord]; omega
  case imm => rw [toNat_immField, toNat_commandWord]; omega

/-- So a word is the one assembled from given fields exactly when it has those fields and no reserved bit. -/
theorem commandWord_eq_iff {op : Byte} {a b : BitVec 4} {imm : Byte} {w : Word} :
    commandWord op a b imm = w ↔
      opField w = op ∧ aField w = a ∧ bField w = b ∧ immField w = imm ∧ rsvField w = 0#8 := by
  obtain ⟨hop, ha, hb, himm, hrsv⟩ := fields_commandWord op a b imm
  rw [eq_comm, word_eq_iff_fields, hop, ha, hb, himm, hrsv]

/-! ### Masks -/

@[simp] theorem fields_and (v w : Word) :
    opField (v &&& w) = opField v &&& opField w ∧ aField (v &&& w) = aField v &&& aField w ∧
      bField (v &&& w) = bField v &&& bField w ∧ immField (v &&& w) = immField v &&& immField w ∧
      rsvField (v &&& w) = rsvField v &&& rsvField w := by
  simp only [opField, aField, bField, immField, rsvField, BitVec.extractLsb'_and, and_self]

@[simp] theorem fields_or (v w : Word) :
    opField (v ||| w) = opField v ||| opField w ∧ aField (v ||| w) = aField v ||| aField w ∧
      bField (v ||| w) = bField v ||| bField w ∧ immField (v ||| w) = immField v ||| immField w ∧
      rsvField (v ||| w) = rsvField v ||| rsvField w := by
  simp only [opField, aField, bField, immField, rsvField, BitVec.extractLsb'_or, and_self]

end Sys2Proof
end

section
/-! SUPPORT. The decoder and the encoder are inverse to each other (R81, R83), and the mask table is the same decoder (R84). -/

namespace Sys2Proof

/-! ### The ranges of R84 -/

@[simp] theorem isLane_iff_le {d : BitVec 4} : isLane d = true ↔ d ≤ 7#4 := by simp [isLane]

@[simp] theorem isKey_iff_le {k : BitVec 4} : isKey k = true ↔ k ≤ 9#4 := by simp [isKey]

@[simp] theorem isStateBlock_iff_le {s : BitVec 4} : isStateBlock s = true ↔ s ≤ 11#4 := by simp [isStateBlock]

@[simp] theorem isGroupBase_iff_eq {d : BitVec 4} : isGroupBase d = true ↔ d = 0#4 ∨ d = 4#4 := by simp [isGroupBase]

/-! ### Encode and decode -/

/-- The fields of a command's word send the decoder to the arm of R83 for its opcode, and the ranges let it take that arm. -/
theorem decode_encode {i : Instr} (h : i.wellFormed = true) : decode (encode i) = .ok i := by
  cases i with
  | kexp | net8 | explode | implode => rfl
  | net4 => simpa [encode, decode, Instr.wellFormed, or_iff_not_imp_left] using h
  | _ => simpa [encode, decode, Instr.wellFormed] using h

/-- The first arm of R83 decodes nothing. -/
theorem of_reservedArm {reserved : Prop} [Decidable reserved] {i : Instr} {e : IllegalWord}
    {below : Except IllegalWord Instr} (h : (if reserved then .error e else below) = .ok i) :
    ¬ reserved ∧ below = .ok i := by
  split at h
  case isTrue => cases h
  case isFalse unreserved => exact ⟨unreserved, h⟩

/-- Any other arm of R83: if the arm's own check makes `w` the word of its command, and the arms below do so for theirs, then
`w` is the word of the command that is decoded. -/
theorem of_decodeArm {w : Word} {check : Prop} [Decidable check] {i j : Instr} {below : Except IllegalWord Instr}
    (own : check → i.wellFormed = true ∧ encode i = w)
    (others : below = .ok j → j.wellFormed = true ∧ encode j = w)
    (h : (if check then .ok i else below) = .ok j) : j.wellFormed = true ∧ encode j = w := by
  split at h
  case isTrue passed => cases h; exact own passed
  case isFalse => exact others h

/-- Each arm of R83 checks the ranges of its command and fixes every field that is no operand of it. -/
theorem wellFormed_and_encode_of_decode {w : Word} {i : Instr} (h : decode w = .ok i) :
    i.wellFormed = true ∧ encode i = w := by
  obtain ⟨unreserved, h⟩ := of_reservedArm h
  revert h
  refine of_decodeArm ?ldx <| of_decodeArm ?stx <| of_decodeArm ?ldk <| of_decodeArm ?stk <| of_decodeArm ?aesrnd <|
    of_decodeArm ?kassist <| of_decodeArm ?kexp <| of_decodeArm ?round4 <| of_decodeArm ?round8 <|
    of_decodeArm ?net4 <| of_decodeArm ?net8 <| of_decodeArm ?explode <| of_decodeArm ?implode ?noArm
  case noArm => intro h; cases h
  all_goals
    intro check
    simp_all [Instr.wellFormed, encode, commandWord_eq_iff]

theorem decode_eq_ok_iff {w : Word} {i : Instr} : decode w = .ok i ↔ i.wellFormed = true ∧ encode i = w :=
  ⟨wellFormed_and_encode_of_decode, fun ⟨hwf, hw⟩ => hw ▸ decode_encode hwf⟩

/-- Settles O1: each word is read back by its own arm. -/
theorem decodeOfEncodeReturnsTheCommand : Obligations.DecodeOfEncodeReturnsTheCommand :=
  fun _ => decode_encode

/-- Settles O2: every arm reads back only the word of its command. -/
theorem encodeOfDecodeReturnsTheWord : Obligations.EncodeOfDecodeReturnsTheWord :=
  fun _ _ => wellFormed_and_encode_of_decode

/-! ### The mask table -/

/-- A row of R84 by the fields of the word: the opcode, the bits of `a`, `b` and `imm` that must be zero, and the largest
`a` and `b`. The reserved field is always checked. -/
def fieldRow (mnemonic : String) (op : Byte) (aMask bMask : BitVec 4) (immMask : Byte) (aMax bMax : BitVec 4) : OpcodeRow :=
  ⟨mnemonic, commandWord op 0#4 0#4 0#8, 0xFF000000#32 ||| commandWord 0xFF#8 aMask bMask immMask, aMax, bMax⟩

theorem opcodeRows_eq_fieldRows : opcodeRows =
    [ fieldRow "LDX"     0x01#8 8#4  0#4  0xFF#8 15#4 11#4,
      fieldRow "STX"     0x02#8 8#4  0#4  0xFF#8 15#4 11#4,
      fieldRow "LDK"     0x03#8 0#4  0#4  0xFF#8 9#4  11#4,
      fieldRow "STK"     0x04#8 0#4  0#4  0xFF#8 9#4  11#4,
      fieldRow "AESRND"  0x10#8 8#4  0#4  0xFF#8 15#4 9#4,
      fieldRow "KASSIST" 0x11#8 8#4  15#4 0x00#8 15#4 15#4,
      fieldRow "KEXP"    0x20#8 15#4 15#4 0xFF#8 15#4 15#4,
      fieldRow "ROUND4"  0x30#8 11#4 0#4  0xFF#8 15#4 9#4,
      fieldRow "ROUND8"  0x31#8 15#4 0#4  0xFF#8 15#4 9#4,
      fieldRow "NET4"    0x32#8 11#4 15#4 0xFF#8 15#4 15#4,
      fieldRow "NET8"    0x33#8 15#4 15#4 0xFF#8 15#4 15#4,
      fieldRow "EXPLODE" 0x40#8 15#4 15#4 0xFF#8 15#4 15#4,
      fieldRow "IMPLODE" 0x41#8 15#4 15#4 0xFF#8 15#4 15#4 ] := by
  decide

/-- A mask of a whole opcode byte compares it, and the other masks ask for zero bits. -/
theorem fieldRow_selects_iff {name : String} {op : Byte} {aMask bMask : BitVec 4} {immMask : Byte}
    {aMax bMax : BitVec 4} {w : Word} :
    (fieldRow name op aMask bMask immMask aMax bMax).selects w ↔
      (opField w = op ∧ aField w &&& aMask = 0#4 ∧ bField w &&& bMask = 0#4 ∧ immField w &&& immMask = 0#8 ∧
        rsvField w = 0#8) ∧ aField w ≤ aMax ∧ bField w ≤ bMax := by
  have reservedMask : opField 0xFF000000#32 = 0#8 ∧ aField 0xFF000000#32 = 0#4 ∧ bField 0xFF000000#32 = 0#4 ∧
      immField 0xFF000000#32 = 0#8 ∧ rsvField 0xFF000000#32 = 0xFF#8 := by decide
  have wholeByte (x : Byte) : x &&& 0xFF#8 = x := BitVec.and_allOnes
  rw [OpcodeRow.selects, fieldRow, eq_comm (a := w &&& _), commandWord_eq_iff]
  simp [reservedMask, wholeByte]

@[simp] theorem fieldRow_mnemonic (name : String) (op : Byte) (aMask bMask : BitVec 4) (immMask : Byte)
    (aMax bMax : BitVec 4) : (fieldRow name op aMask bMask immMask aMax bMax).mnemonic = name := rfl

/-! The conditions that the masks and ranges of the table put on a field. -/

@[simp] theorem laneMask_iff {d : BitVec 4} : d &&& 8#4 = 0#4 ↔ d ≤ 7#4 := by
  revert d
  decide

@[simp] theorem groupBaseMask_iff {d : BitVec 4} : d &&& 11#4 = 0#4 ↔ d = 0#4 ∨ d = 4#4 := by
  revert d
  decide

@[simp] theorem nibbleMask_iff {d : BitVec 4} : d &&& 15#4 = 0#4 ↔ d = 0#4 := by
  revert d
  decide

@[simp] theorem byteMask_iff {d : Byte} : d &&& 255#8 = 0#8 ↔ d = 0#8 := by
  revert d
  decide

@[simp] theorem le_maxNibble (d : BitVec 4) : d ≤ 15#4 := by
  revert d
  decide

/-- The row of a command's mnemonic selects its word. -/
theorem exists_row_selects_encode {i : Instr} (h : i.wellFormed = true) :
    ∃ r ∈ opcodeRows, r.mnemonic = mnemonic i ∧ r.selects (encode i) := by
  rw [opcodeRows_eq_fieldRows]
  cases i with
  | kexp | net8 | explode | implode => simp [mnemonic, encode, fieldRow_selects_iff]
  | _ => simpa [mnemonic, encode, fieldRow_selects_iff, Instr.wellFormed] using h

/-- A row selects only words of its command, with the operands that stand in the word. -/
theorem exists_command_of_selects (w : Word) : ∀ r ∈ opcodeRows, r.selects w →
    ∃ i : Instr, (i.wellFormed = true ∧ encode i = w) ∧ mnemonic i = r.mnemonic := by
  simp only [opcodeRows_eq_fieldRows, List.forall_mem_cons, fieldRow_selects_iff]
  refine ⟨fun h => ⟨.ldx (aField w) (bField w), ?ldx, rfl⟩, fun h => ⟨.stx (aField w) (bField w), ?stx, rfl⟩,
    fun h => ⟨.ldk (aField w) (bField w), ?ldk, rfl⟩, fun h => ⟨.stk (aField w) (bField w), ?stk, rfl⟩,
    fun h => ⟨.aesrnd (aField w) (bField w), ?aesrnd, rfl⟩, fun h => ⟨.kassist (aField w) (immField w), ?kassist, rfl⟩,
    fun h => ⟨.kexp, ?kexp, rfl⟩, fun h => ⟨.round4 (aField w) (bField w), ?round4, rfl⟩,
    fun h => ⟨.round8 (bField w), ?round8, rfl⟩, fun h => ⟨.net4 (aField w), ?net4, rfl⟩,
    fun h => ⟨.net8, ?net8, rfl⟩, fun h => ⟨.explode, ?explode, rfl⟩, fun h => ⟨.implode, ?implode, rfl⟩, by simp⟩
  all_goals simp_all [Instr.wellFormed, encode, commandWord_eq_iff]

/-- Settles O4: on both sides stand the words of the well-formed commands. -/
theorem opcodeRowsSelectExactlyTheDecodedWords : Obligations.OpcodeRowsSelectExactlyTheDecodedWords := by
  unfold Obligations.OpcodeRowsSelectExactlyTheDecodedWords
  refine fun w => ⟨fun i hdec => ?decoded, fun r hr hsel => ?selected⟩
  case decoded =>
    obtain ⟨hwf, rfl⟩ := decode_eq_ok_iff.1 hdec
    exact exists_row_selects_encode hwf
  case selected =>
    obtain ⟨i, hi, hname⟩ := exists_command_of_selects w r hr hsel
    exact ⟨i, decode_eq_ok_iff.2 hi, hname⟩

/-- Settles O5: the twenty words, evaluated. -/
theorem exampleWordsDecodeAsListed : Obligations.ExampleWordsDecodeAsListed := by
  unfold Obligations.ExampleWordsDecodeAsListed
  and_intros <;> rfl

end Sys2Proof
end

section
/-! SUPPORT. A word at the control port: what an engine that is ready makes of a write to `CMD` (R31, R91, R231 to R234). -/

namespace Sys2Proof.Machine

/-! ### The two forms of write to `CMD` -/

/-- A blocking write to an engine that is not busy is issued at once (R91). -/
theorem step_call {s : State} {w : Word} {rest : List HostAction} (hp : s.pending = .call w :: rest)
    (idle : s.status.busy = false) : step s = callCommand w { s with pending := rest } := by
  simp [step_action hp, hostStep, idle]

/-- A posted write to an engine that is not busy is issued at once (R91). -/
theorem step_post {s : State} {w : Word} {rest : List HostAction} (hp : s.pending = .ctlWrite 0x00 32 w :: rest)
    (idle : s.status.busy = false) : step s = .next (postCommand w { s with pending := rest }) := by
  simp [step_action hp, hostStep, idle, ctlWrite]

/-- A blocking write of a command's word runs the command, unless a fault has halted the engine (R91, R235). -/
theorem callCommand_of_decode {s : State} {w : Word} {i : Instr} (unfaulted : s.status.fault = false)
    (hdec : decode w = .ok i) : callCommand w s = exec i s := by
  simp [callCommand, unfaulted, hdec]

/-- A posted write of a command's word accepts the command if its sources hold values: a word that decodes has no operand
out of range (R91). -/
theorem postCommand_of_decode {s : State} {w : Word} {i : Instr} (unfaulted : s.status.fault = false)
    (hdec : decode w = .ok i) (held : sourcesHeld i s = true) : postCommand w s = acceptCommand i s := by
  obtain ⟨hwf, -⟩ := decode_eq_ok_iff.1 hdec
  simp [postCommand, unfaulted, hdec, commandFault_none hwf held]

/-! ### Frames of acceptance and of a fault -/

/-- The bytes of both memories are read through the two lists of cells alone. -/
theorem sameMemories_of_eq {s t : State} (hstate : t.stateMem = s.stateMem) (hpad : t.padMem = s.padMem) :
    sameMemories s t := by
  intro sp a
  cases sp <;> simp [State.readByte, State.mem, hstate, hpad]

/-- Taking a fault writes `STATUS` and `FAULTCMD` alone (R234). -/
theorem faultedFrom_raiseFault (c : Cause) (w : Word) (s : State) : faultedFrom s (raiseFault c w s) c w :=
  ⟨rfl, rfl, rfl, rfl, fun _ => rfl, fun _ => rfl, sameMemories_of_eq rfl rfl, rfl, rfl, rfl, rfl, rfl, rfl⟩

/-- Settles O6: a ready engine issues the word at once, and the word decodes. -/
theorem stepRunsTheCalledCommand : Obligations.StepRunsTheCalledCommand := by
  unfold Obligations.StepRunsTheCalledCommand
  rintro s w i rest hp ⟨idle, unfaulted⟩ hdec
  exact (step_call hp idle).trans (callCommand_of_decode unfaulted hdec)

/-- Settles O7: the step is `acceptCommand`, on the state with the write taken from the queue. -/
theorem postedCommandIsAccepted : Obligations.PostedCommandIsAccepted := by
  unfold Obligations.PostedCommandIsAccepted
  rintro s w i rest hp ⟨idle, unfaulted⟩ hdec held
  have hstep : step s = .next (acceptCommand i { s with pending := rest }) :=
    (step_post hp idle).trans (congrArg _ (postCommand_of_decode unfaulted hdec held))
  exact ⟨_, hstep, rfl, rfl, rfl, rfl, fun _ => rfl, fun _ => rfl, sameMemories_of_eq rfl rfl, by simp [sameControl]⟩

/-- Settles O10: the range check comes first, so no register is looked at. -/
theorem operandOutOfRangeRaisesIllegalCmd : Obligations.OperandOutOfRangeRaisesIllegalCmd := by
  unfold Obligations.OperandOutOfRangeRaisesIllegalCmd
  intro s i outOfRange
  exact ⟨_, by rw [exec_eq_runCommand, runCommand_illegal _ outOfRange], faultedFrom_raiseFault _ _ s, rfl⟩

end Sys2Proof.Machine
end

section
/-! SUPPORT. `LDK` and `KEXP` as rules, and the pseudo-command `KEYGEN` that is made of them (R89, R137, R138, R212). -/

namespace Sys2Proof.Machine

/-! ### Completed commands -/

theorem completedFrom.trans {s t u : State} (hst : completedFrom s t) (htu : completedFrom t u) : completedFrom s u := by
  obtain ⟨-, -, hseq, hcontrol⟩ := hst
  obtain ⟨hbusy, hrunning, hseq', hcontrol'⟩ := htu
  exact ⟨hbusy, hrunning, hseq'.trans hseq, hcontrol.trans hcontrol'⟩

theorem sameMemories.readBlock {s t : State} (h : sameMemories s t) (sp : Space) (i : Nat) :
    t.readBlock sp i = s.readBlock sp i :=
  State.readBlock_congr fun _ _ => h sp _

@[simp] theorem key_acceptCommand (i : Instr) (s : State) (j : Nat) : (acceptCommand i s).key j = s.key j := rfl

@[simp] theorem key_completeCommand (s : State) (j : Nat) : (completeCommand s).key j = s.key j := rfl

/-- The first command runs, and the rest follow from where it ends. -/
theorem runAll_cons {i : Instr} {rest : List Instr} {s t : State} (h : exec i s = .next t) :
    runAll (i :: rest) s = runAll rest t := by
  simp [runAll, h]

/-! ### The rules -/

/-- A command that leaves the sequencer alone and writes consecutive round keys, as `LDK` and `KEXP` do. -/
theorem completed_setKeys {i : Instr} {s t : State} {k : Nat} {vs : List Block} (fits : k + vs.length ≤ 10)
    (hseq : startSequencer i s.seq = s.seq) (ht : t = completeCommand ((acceptCommand i s).setKeys k vs)) :
    (∀ j, j < vs.length → t.key (k + j) = vs[j]?) ∧ sameKeysExcept s t k vs.length ∧ sameLanes s t ∧
      sameMemories s t ∧ completedFrom s t := by
  subst ht
  refine ⟨fun j hj => ?written, fun j hj => ?others, State.lane_congr (by simp), sameMemories_of_eq (by simp) (by simp),
    rfl, rfl, by simpa using hseq, by simp [sameControl]⟩
  case written => rw [key_completeCommand, State.key_setKeys_inside _ j _ fits hj, List.getElem?_eq_getElem hj]
  case others => rw [key_completeCommand, State.key_setKeys_outside _ j _ fits hj, key_acceptCommand]

/-- `LDK k, s` (R212): round key `k` gets the State block. -/
theorem exec_ldk {s : State} {k b : BitVec 4} (hk : isKey k = true) (hb : isStateBlock b = true) :
    ∃ t, exec (.ldk k b) s = .next t ∧ t.key k.toNat = some (s.readBlock .state b.toNat) ∧
      sameKeysExcept s t k.toNat 1 ∧ sameLanes s t ∧ sameMemories s t ∧ completedFrom s t := by
  have hexec := exec_completes (i := .ldk k b) (s := s) (Bool.and_eq_true_iff.2 ⟨hk, hb⟩) rfl
  have fits : k.toNat + 1 ≤ 10 := Nat.succ_le_succ (isKey_iff_le.1 hk)
  obtain ⟨hkey, hframe⟩ := completed_setKeys (i := .ldk k b) (vs := [s.readBlock .state b.toNat]) fits rfl rfl
  exact ⟨_, hexec, hkey 0 Nat.one_pos, hframe⟩

/-- `KEXP` (R137): `K[2..9]` get the rest of the key schedule of `K[0]` and `K[1]`. -/
theorem exec_kexp {s : State} {lo hi : Block} (h0 : s.key 0 = some lo) (h1 : s.key 1 = some hi) :
    ∃ t, exec .kexp s = .next t ∧ (∀ j, j < 8 → t.key (2 + j) = (keyExpand lo hi)[2 + j]?) ∧
      sameKeysExcept s t 2 8 ∧ sameLanes s t ∧ sameMemories s t ∧ completedFrom s t := by
  have heffect : commandEffect .kexp (acceptCommand .kexp s) =
      (acceptCommand .kexp s).setKeys 2 ((keyExpand lo hi).drop 2) := by
    rw [commandEffect, State.keyData_of_some ((key_acceptCommand _ _ _).trans h0),
      State.keyData_of_some ((key_acceptCommand _ _ _).trans h1)]
  have hexec : exec .kexp s =
      .next (completeCommand ((acceptCommand .kexp s).setKeys 2 ((keyExpand lo hi).drop 2))) := by
    rw [exec_completes rfl (by simp [sourcesHeld, sourceLanes, sourceKeys, h0, h1]), heffect]
  have hlen : ((keyExpand lo hi).drop 2).length = 8 := by rw [List.length_drop, length_keyExpand]
  have rule := completed_setKeys (i := .kexp) (s := s) (k := 2) (vs := (keyExpand lo hi).drop 2) (by omega) rfl rfl
  simp only [hlen, List.getElem?_drop] at rule
  exact ⟨_, hexec, rule⟩

/-- Settles O28: the two loads put the seed into `K[0]` and `K[1]`, which the expansion keeps as its first two keys. -/
theorem keygenExpandsTheStateSeed : Obligations.KeygenExpandsTheStateSeed := by
  unfold Obligations.KeygenExpandsTheStateSeed
  intro s b hb
  have hb10 : b.toNat ≤ 10 := hb
  have hsucc : (b + 1#4).toNat = b.toNat + 1 := by bv_omega
  have hnext : isStateBlock (b + 1#4) = true := by rw [isStateBlock_iff, hsucc]; omega
  obtain ⟨t, ht, htkey, -, htlanes, htmem, htdone⟩ :=
    exec_ldk (s := s) (k := 0#4) (b := b) rfl ((isStateBlock_iff b).2 (by omega))
  obtain ⟨u, hu, hukey, hukeys, hulanes, humem, hudone⟩ := exec_ldk (s := t) (k := 1#4) (b := b + 1#4) rfl hnext
  have hu0 : u.key 0 = some (s.readBlock .state b.toNat) := (hukeys 0 (.inl (by decide))).trans htkey
  have hu1 : u.key 1 = some (s.readBlock .state (b.toNat + 1)) := by
    rw [← htmem.readBlock, ← hsucc]
    exact hukey
  obtain ⟨v, hv, hvkey, hvkeys, hvlanes, hvmem, hvdone⟩ := exec_kexp hu0 hu1
  have hrun : runAll (keygen b) s = .next v := by
    calc runAll (keygen b) s = runAll [.ldk 1#4 (b + 1#4), .kexp] t := runAll_cons ht
      _ = runAll [.kexp] u := runAll_cons hu
      _ = .next v := runAll_cons hv
  refine ⟨v, hrun, fun j hj => ?keys, fun j => ?lanes, fun sp a => ?memories, (htdone.trans hudone).trans hvdone⟩
  case keys =>
    match j with
    | 0 => exact (hvkeys 0 (by omega)).trans hu0
    | 1 => exact (hvkeys 1 (by omega)).trans hu1
    | j + 2 => exact Nat.add_comm 2 j ▸ hvkey j (by omega)
  case lanes => rw [hvlanes, hulanes, htlanes]
  case memories => rw [hvmem, humem, htmem]

end Sys2Proof.Machine
end

section
/-! SUPPORT. The field GF(2^8) (R101, R102): `gmul` is linear in its first factor, which makes it commutative and gives
each byte at most one inverse. -/

namespace Sys2Proof.Machine

/-- With `BitVec.xor_assoc` and `BitVec.xor_comm` this sorts a sum of bytes. -/
theorem byte_xor_left_comm (a b c : Byte) : a ^^^ (b ^^^ c) = b ^^^ (a ^^^ c) := by
  rw [← BitVec.xor_assoc, BitVec.xor_comm a, BitVec.xor_assoc]

/-! ### `xtime` is linear (R101) -/

@[simp] theorem xtime_zero : xtime 0#8 = 0#8 := by decide

/-- The shift is linear, and the reduction depends on the top bit alone. -/
theorem xtime_xor (a b : Byte) : xtime (a ^^^ b) = xtime a ^^^ xtime b := by
  simp only [xtime, BitVec.shiftLeft_xor_distrib, BitVec.msb_xor]
  cases a.msb <;> cases b.msb <;> simp [BitVec.xor_assoc, BitVec.xor_comm, byte_xor_left_comm]

theorem iterate_xtime_xor (n : Nat) (a b : Byte) : xtime^[n] (a ^^^ b) = xtime^[n] a ^^^ xtime^[n] b := by
  induction n generalizing a b with
  | zero => rfl
  | succ n ih => simp only [Function.iterate_succ_apply, xtime_xor, ih]

/-! ### Products -/

theorem gmulBits_zero_left (c : Byte) (n : Nat) : gmulBits 0#8 c n = 0#8 := by
  induction n with
  | zero => rfl
  | succ n ih => simp [gmulBits, ih, Function.iterate_fixed xtime_zero n]

theorem gmulBits_xor_left (a b c : Byte) (n : Nat) : gmulBits (a ^^^ b) c n = gmulBits a c n ^^^ gmulBits b c n := by
  induction n with
  | zero => exact BitVec.xor_zero.symm
  | succ n ih =>
    rw [gmulBits, gmulBits, gmulBits, ih, iterate_xtime_xor]
    cases c.getLsbD n <;> simp [BitVec.xor_assoc, byte_xor_left_comm]

theorem gmulBits_xtime_left (a c : Byte) (n : Nat) : gmulBits (xtime a) c n = xtime (gmulBits a c n) := by
  induction n with
  | zero => exact xtime_zero.symm
  | succ n ih =>
    rw [gmulBits, gmulBits, ih, xtime_xor, (Function.Commute.refl xtime).iterate_left n a]
    cases c.getLsbD n <;> simp

theorem gmulBits_iterate_xtime_left (a c : Byte) (n m : Nat) :
    gmulBits (xtime^[m] a) c n = xtime^[m] (gmulBits a c n) :=
  Function.Semiconj.iterate_right (f := (gmulBits · c n)) (gmulBits_xtime_left · c n) m a

/-- Two factors from the right change places: a product is a sum of `xtime^n` of its first factor, and multiplication by
the other factor goes into that sum. -/
theorem gmulBits_right_comm (a b c : Byte) (m n : Nat) :
    gmulBits (gmulBits a c n) b m = gmulBits (gmulBits a b m) c n := by
  induction n with
  | zero => exact gmulBits_zero_left b m
  | succ n ih =>
    rw [gmulBits, gmulBits, gmulBits_xor_left, ih]
    cases c.getLsbD n
    · simp [gmulBits_zero_left]
    · simp [gmulBits_iterate_xtime_left]

theorem gmul_right_comm (a b c : Byte) : gmul (gmul a c) b = gmul (gmul a b) c := gmulBits_right_comm a b c 8 8

/-- The bits of `c` are the coefficients of its powers of `x`. -/
theorem gmul_one_left : ∀ c : Byte, gmul 1#8 c = c := by decide +kernel

theorem gmul_comm (a b : Byte) : gmul a b = gmul b a := by
  simpa only [gmul_one_left] using gmul_right_comm 1#8 b a

@[simp] theorem gmul_two_left (a : Byte) : gmul 2#8 a = xtime a := by
  rw [gmul_comm]
  simp [gmul, gmulBits]

@[simp] theorem gmul_three_left (a : Byte) : gmul 3#8 a = xtime a ^^^ a := by
  rw [gmul_comm, BitVec.xor_comm]
  simp [gmul, gmulBits]

/-! ### Inverses -/

theorem ne_zero_of_gmul_eq_one {a t : Byte} (h : gmul a t = 1#8) : t ≠ 0#8 := by
  rintro rfl
  rw [gmul_comm, gmul, gmulBits_zero_left] at h
  exact absurd h (by decide)

/-- `t = (a s) t = (a t) s = s`. -/
theorem gmul_inverse_unique {a s t : Byte} (hs : gmul a s = 1#8) (ht : gmul a t = 1#8) : t = s := by
  calc t = gmul (gmul a s) t := by rw [hs, gmul_one_left]
    _ = gmul (gmul a t) s := gmul_right_comm a t s
    _ = s := by rw [ht, gmul_one_left]

end Sys2Proof.Machine
end

section
/-! SUPPORT. The S-box by its definition (R103): the table, undone by the inverse affine map, is the inverse of the field. -/

namespace Sys2Proof.Machine

/-- The inverse of the affine map of R103. -/
def sboxAffineInverse (s : Byte) : Byte := s.rotateLeft 1 ^^^ s.rotateLeft 3 ^^^ s.rotateLeft 6 ^^^ 0x05#8

theorem sboxAffine_sboxAffineInverse : ∀ s : Byte, sboxAffine (sboxAffineInverse s) = s := by decide +kernel

/-- What the table of R103 takes for the inverse of a byte. -/
def fieldInverse (a : Byte) : Byte := sboxAffineInverse (sbox a)

theorem sboxAffine_fieldInverse (a : Byte) : sboxAffine (fieldInverse a) = sbox a := sboxAffine_sboxAffineInverse (sbox a)

theorem fieldInverse_zero : fieldInverse 0#8 = 0#8 := by decide

/-- The check of the table: every entry but that of 0 comes from the inverse in the field. -/
theorem gmul_fieldInverse : ∀ a : Byte, a ≠ 0#8 → gmul a (fieldInverse a) = 1#8 := by decide +kernel

theorem eq_fieldInverse {a t : Byte} (h : gmul a t = 1#8) : t = fieldInverse a :=
  have hne : a ≠ 0#8 := ne_zero_of_gmul_eq_one ((gmul_comm t a).trans h)
  gmul_inverse_unique (gmul_fieldInverse a hne) h

theorem fieldInverse_fieldInverse (a : Byte) : fieldInverse (fieldInverse a) = a := by
  by_cases hne : a = 0#8
  · rw [hne, fieldInverse_zero, fieldInverse_zero]
  · exact (eq_fieldInverse ((gmul_comm _ a).trans (gmul_fieldInverse a hne))).symm

/-- Inverses are undone by inverses, and the affine map by its own inverse. -/
theorem sbox_injective : Function.Injective sbox := by
  have hleft : Function.LeftInverse (fun s => fieldInverse (sboxAffineInverse s)) sbox := fieldInverse_fieldInverse
  exact hleft.injective

theorem byteOf_subBytes (b : Block) {i : Nat} (hi : i < 16) : byteOf (subBytes b) i = sbox (byteOf b i) :=
  byteOf_blockOfBytes _ hi

/-- Settles O20: the field has one inverse of a byte, and the table holds the affine map of it. -/
theorem sboxTableMatchesItsDefinition : Obligations.SboxTableMatchesItsDefinition := by
  unfold Obligations.SboxTableMatchesItsDefinition
  refine ⟨by decide, fun a t h => ?affine, fun a hne => ⟨_, gmul_fieldInverse a hne⟩,
    Finite.injective_iff_bijective.1 sbox_injective, by decide, by decide, by decide, by decide,
    fun b _ hi => byteOf_subBytes b hi, by decide⟩
  case affine => rw [eq_fieldInverse h, sboxAffine_fieldInverse]

end Sys2Proof.Machine
end

section
/-! SUPPORT. The four steps of a round, byte by byte and column by column, and why each can be undone (R104 to R108,
R116). -/

namespace Sys2Proof.Machine

/-! ### `ShiftRows` (R105) -/

/-- The byte that `ShiftRows` takes to place `i`. -/
def shiftRowsSource (i : Nat) : Nat := i % 4 + 4 * ((i / 4 + i % 4) % 4)

theorem shiftRowsSource_lt (i : Nat) : shiftRowsSource i < 16 := by
  unfold shiftRowsSource
  omega

theorem byteOf_shiftRows (b : Block) {i : Nat} (hi : i < 16) : byteOf (shiftRows b) i = byteOf b (shiftRowsSource i) :=
  byteOf_blockOfBytes _ hi

/-- No byte is lost: the places are permuted. -/
theorem exists_shiftRowsSource : ∀ j < 16, ∃ i < 16, shiftRowsSource i = j := by decide

theorem shiftRows_subBytes (b : Block) : shiftRows (subBytes b) = subBytes (shiftRows b) :=
  block_eq_of_bytes fun i hi => by
    rw [byteOf_shiftRows _ hi, byteOf_subBytes _ (shiftRowsSource_lt i), byteOf_subBytes _ hi, byteOf_shiftRows _ hi]

/-- Settles O21: the places of R105 are those of `shiftRowsSource`. -/
theorem shiftRowsRotatesEachRow : Obligations.ShiftRowsRotatesEachRow := by
  unfold Obligations.ShiftRowsRotatesEachRow
  refine ⟨fun b r c hr hc => ?rows, fun b => ?list, by decide, shiftRows_subBytes⟩
  case rows =>
    rw [byteOf_shiftRows b (by omega), shiftRowsSource, show (r + 4 * c) % 4 = r by omega,
      show (r + 4 * c) / 4 = c by omega]
  case list =>
    calc (List.range 16).map (byteOf (shiftRows b))
        = (List.range 16).map (byteOf b ∘ shiftRowsSource) :=
          List.map_congr_left fun i hi => byteOf_shiftRows b (List.mem_range.1 hi)
      _ = ((List.range 16).map shiftRowsSource).map (byteOf b) := List.map_map.symm
      _ = [0, 5, 10, 15, 4, 9, 14, 3, 8, 13, 2, 7, 12, 1, 6, 11].map (byteOf b) :=
          congrArg (List.map (byteOf b)) (by decide)

/-! ### `MixColumns` (R106) -/

/-- Byte `r` of column `c` (R117). -/
theorem byteOf_column (b : Block) (c : Nat) {r : Nat} (hr : r < 4) : byteOf b (4 * c + r) = byteOfWord (wordOf b c) r := by
  rw [byteOf_eq_byteOfWord, show (4 * c + r) / 4 = c by omega, show (4 * c + r) % 4 = r by omega]

theorem byteOf_column_zero (b : Block) (c : Nat) : byteOf b (4 * c) = byteOfWord (wordOf b c) 0 :=
  byteOf_column b c (r := 0) (by decide)

theorem wordOf_mixColumns (b : Block) {c : Nat} (hc : c < 4) : wordOf (mixColumns b) c = mixedColumn b c := by
  interval_cases c <;> simp [mixColumns]

theorem byteOf_mixColumns (b : Block) {c r : Nat} (hc : c < 4) (hr : r < 4) :
    byteOf (mixColumns b) (4 * c + r) = byteOfWord (mixedColumn b c) r := by
  rw [byteOf_column _ c hr, wordOf_mixColumns b hc]

/-- Of one byte in all four places, 02 + 03 + 01 + 01 = 01 times the byte is left. -/
theorem byteOfWord_mixColumn_same (v : Byte) {r : Nat} (hr : r < 4) : byteOfWord (mixColumn v v v v) r = v := by
  interval_cases r <;> simp [mixColumn, BitVec.xor_assoc]

/-- Settles O22: the products with 02 and 03 are `xtime a` and `xtime a xor a`. -/
theorem mixColumnsMultipliesEachColumn : Obligations.MixColumnsMultipliesEachColumn := by
  unfold Obligations.MixColumnsMultipliesEachColumn
  refine ⟨fun b c hc => ?matrix, fun b c v hc hv r hr => ?same, by decide, by decide⟩
  case matrix =>
    have hfirst : byteOf (mixColumns b) (4 * c) = byteOfWord (mixedColumn b c) 0 :=
      byteOf_mixColumns b (r := 0) hc (by decide)
    simp [hfirst, byteOf_mixColumns b hc, mixedColumn, mixColumn]
  case same =>
    have hcolumn : mixedColumn b c = mixColumn v v v v := by
      rw [mixedColumn, hv 1 (by decide), hv 2 (by decide), hv 3 (by decide), show byteOf b (4 * c) = v from hv 0 (by decide)]
    rw [byteOf_mixColumns b hc hr, hcolumn, byteOfWord_mixColumn_same v hr]

/-! ### Four times `MixColumns` changes nothing -/

/-- A byte of a mixed column, from the byte `a` in its place and the bytes `b`, `c`, `d` of the rows that follow in turn. -/
def mixByte (a b c d : Byte) : Byte := xtime (a ^^^ b) ^^^ (b ^^^ (c ^^^ d))

theorem mixColumn_eq_mixByte (a b c d : Byte) :
    mixColumn a b c d = wordOfBytes (mixByte a b c d) (mixByte b c d a) (mixByte c d a b) (mixByte d a b c) := by
  simp [mixColumn, mixByte, xtime_xor, BitVec.xor_assoc, BitVec.xor_comm, byte_xor_left_comm]

theorem mixByte_xor_next (a b c d : Byte) : mixByte a b c d ^^^ mixByte b c d a = xtime (a ^^^ c) ^^^ (a ^^^ b) := by
  simp [mixByte, xtime_xor, BitVec.xor_assoc, BitVec.xor_comm, byte_xor_left_comm]

theorem mixByte_xor_rest (a b c d : Byte) :
    mixByte b c d a ^^^ (mixByte c d a b ^^^ mixByte d a b c) = xtime (a ^^^ b) ^^^ a := by
  simp [mixByte, xtime_xor, BitVec.xor_assoc, BitVec.xor_comm, byte_xor_left_comm]

/-- A byte of a column mixed twice, from the byte `a` in its place and the byte `c` two rows on: 05 times `a` plus 04
times `c`. -/
def mixByteTwice (a c : Byte) : Byte := xtime (xtime (a ^^^ c)) ^^^ a

theorem mixByte_mixByte (a b c d : Byte) :
    mixByte (mixByte a b c d) (mixByte b c d a) (mixByte c d a b) (mixByte d a b c) = mixByteTwice a c := by
  rw [mixByte, mixByte_xor_next, mixByte_xor_rest, xtime_xor, mixByteTwice]
  simp [BitVec.xor_assoc]

/-- The sum of the two bytes is what it was, so the second time cancels what the first has added. -/
theorem mixByteTwice_mixByteTwice (a c : Byte) : mixByteTwice (mixByteTwice a c) (mixByteTwice c a) = a := by
  have hsum : mixByteTwice a c ^^^ mixByteTwice c a = a ^^^ c := by
    rw [mixByteTwice, mixByteTwice, BitVec.xor_comm c a]
    simp [BitVec.xor_assoc, byte_xor_left_comm]
  rw [mixByteTwice, hsum, mixByteTwice, xor_cancel_left]

/-- `MixColumns` on one column. -/
def mixWord (w : Word) : Word := mixColumn (byteOfWord w 0) (byteOfWord w 1) (byteOfWord w 2) (byteOfWord w 3)

theorem mixedColumn_eq_mixWord (b : Block) (c : Nat) : mixedColumn b c = mixWord (wordOf b c) := by
  simp [mixedColumn, mixWord, byteOf_column, byteOf_column_zero]

theorem mixWord_mixWord (a b c d : Byte) : mixWord (mixWord (wordOfBytes a b c d)) =
    wordOfBytes (mixByteTwice a c) (mixByteTwice b d) (mixByteTwice c a) (mixByteTwice d b) := by
  simp [mixWord, mixColumn_eq_mixByte, mixByte_mixByte]

theorem mixWord_four_times (w : Word) : mixWord (mixWord (mixWord (mixWord w))) = w := by
  rw [← wordOfBytes_byteOfWord w]
  simp only [mixWord_mixWord, mixByteTwice_mixByteTwice]

/-! ### The round as a map of blocks (R116) -/

theorem subBytes_injective : Function.Injective subBytes := fun b c h =>
  block_eq_of_bytes fun i hi => sbox_injective <| by rw [← byteOf_subBytes b hi, ← byteOf_subBytes c hi, h]

theorem shiftRows_injective : Function.Injective shiftRows := fun b c h =>
  block_eq_of_bytes fun j hj => by
    obtain ⟨i, hi, rfl⟩ := exists_shiftRowsSource j hj
    rw [← byteOf_shiftRows b hi, ← byteOf_shiftRows c hi, h]

theorem mixWord_injective : Function.Injective mixWord :=
  Function.LeftInverse.injective (g := fun w => mixWord (mixWord (mixWord w))) mixWord_four_times

theorem mixColumns_injective : Function.Injective mixColumns := fun b c h => by
  have hword : ∀ j < 4, wordOf b j = wordOf c j := fun j hj => mixWord_injective <| by
    rw [← mixedColumn_eq_mixWord, ← mixedColumn_eq_mixWord, ← wordOf_mixColumns b hj, ← wordOf_mixColumns c hj, h]
  exact block_eq_of_words (hword 0 (by decide)) (hword 1 (by decide)) (hword 2 (by decide)) (hword 3 (by decide))

theorem addRoundKey_injective (rk : Block) : Function.Injective (addRoundKey · rk) := fun _ _ h =>
  (BitVec.xor_left_inj rk).1 h

/-- Settles O23: none of the four steps maps two blocks to one, and there are finitely many blocks. -/
theorem encryptRoundIsABijection : Obligations.EncryptRoundIsABijection := by
  unfold Obligations.EncryptRoundIsABijection
  intro rk
  have hinjective : Function.Injective fun b => encryptRound b rk :=
    (addRoundKey_injective rk).comp (mixColumns_injective.comp (shiftRows_injective.comp subBytes_injective))
  exact Finite.injective_iff_bijective.1 hinjective

end Sys2Proof.Machine
end

section
/-! SUPPORT. `AESRND` and `KASSIST` as rules (R114, R115): a command that writes lanes leaves all else alone. -/

namespace Sys2Proof.Machine

@[simp] theorem lane_acceptCommand (i : Instr) (s : State) (j : Nat) : (acceptCommand i s).lane j = s.lane j := rfl

@[simp] theorem lane_completeCommand (s : State) (j : Nat) : (completeCommand s).lane j = s.lane j := rfl

/-- A command that leaves the sequencer alone and writes consecutive lanes. -/
theorem completed_setLanes {i : Instr} {s t : State} {d : Nat} {vs : List Block} (fits : d + vs.length ≤ 8)
    (hseq : startSequencer i s.seq = s.seq) (ht : t = completeCommand ((acceptCommand i s).setLanes d vs)) :
    (∀ j, j < vs.length → t.lane (d + j) = vs[j]?) ∧ sameLanesExcept s t d vs.length ∧ sameKeys s t ∧
      sameMemories s t ∧ completedFrom s t := by
  subst ht
  refine ⟨fun j hj => ?written, fun j hj => ?others, State.key_congr (by simp), sameMemories_of_eq (by simp) (by simp),
    rfl, rfl, by simpa using hseq, by simp [sameControl]⟩
  case written => rw [lane_completeCommand, State.lane_setLanes_inside _ j _ fits hj, List.getElem?_eq_getElem hj]
  case others => rw [lane_completeCommand, State.lane_setLanes_outside _ j _ fits hj, lane_acceptCommand]

/-- `AESRND d, k` (R114): lane `d` gets one round with `K[k]`. -/
theorem exec_aesrnd {s : State} {d k : BitVec 4} {v rk : Block} (hd : isLane d = true) (hk : isKey k = true)
    (hv : s.lane d.toNat = some v) (hrk : s.key k.toNat = some rk) :
    ∃ t, exec (.aesrnd d k) s = .next t ∧ t.lane d.toNat = some (encryptRound v rk) ∧
      sameLanesExcept s t d.toNat 1 ∧ sameKeys s t ∧ sameMemories s t ∧ completedFrom s t := by
  have held : sourcesHeld (.aesrnd d k) s = true := by simp [sourcesHeld, sourceLanes, sourceKeys, hv, hrk]
  have heffect : commandEffect (.aesrnd d k) (acceptCommand (.aesrnd d k) s) =
      (acceptCommand (.aesrnd d k) s).setLanes d.toNat [encryptRound v rk] := by
    rw [commandEffect, State.laneData_of_some ((lane_acceptCommand _ _ _).trans hv),
      State.keyData_of_some ((key_acceptCommand _ _ _).trans hrk)]
    rfl
  have hexec := exec_completes (i := .aesrnd d k) (Bool.and_eq_true_iff.2 ⟨hd, hk⟩) held
  have fits : d.toNat + 1 ≤ 8 := Nat.succ_le_succ (isLane_iff_le.1 hd)
  obtain ⟨hlane, hframe⟩ :=
    completed_setLanes (i := .aesrnd d k) (vs := [encryptRound v rk]) fits rfl (congrArg completeCommand heffect)
  exact ⟨_, hexec, hlane 0 Nat.one_pos, hframe⟩

/-- `KASSIST d, imm` (R115): lane `d` gets its assist. -/
theorem exec_kassist {s : State} {d : BitVec 4} {rcon : Byte} {v : Block} (hd : isLane d = true)
    (hv : s.lane d.toNat = some v) :
    ∃ t, exec (.kassist d rcon) s = .next t ∧ t.lane d.toNat = some (keyScheduleAssist v rcon) ∧
      sameLanesExcept s t d.toNat 1 ∧ sameKeys s t ∧ sameMemories s t ∧ completedFrom s t := by
  have held : sourcesHeld (.kassist d rcon) s = true := by simp [sourcesHeld, sourceLanes, sourceKeys, hv]
  have heffect : commandEffect (.kassist d rcon) (acceptCommand (.kassist d rcon) s) =
      (acceptCommand (.kassist d rcon) s).setLanes d.toNat [keyScheduleAssist v rcon] := by
    rw [commandEffect, State.laneData_of_some ((lane_acceptCommand _ _ _).trans hv)]
    rfl
  have hexec := exec_completes (i := .kassist d rcon) hd held
  have fits : d.toNat + 1 ≤ 8 := Nat.succ_le_succ (isLane_iff_le.1 hd)
  obtain ⟨hlane, hframe⟩ :=
    completed_setLanes (i := .kassist d rcon) (vs := [keyScheduleAssist v rcon]) fits rfl (congrArg completeCommand heffect)
  exact ⟨_, hexec, hlane 0 Nat.one_pos, hframe⟩

/-- Settles O18: `SubBytes` takes the S-box of each byte, and the other three steps are those of the round. -/
theorem singleRoundUpdatesOneLane : Obligations.SingleRoundUpdatesOneLane := by
  unfold Obligations.SingleRoundUpdatesOneLane
  intro s d k v rk hd hk hv hrk
  obtain ⟨t, hexec, hrule⟩ := exec_aesrnd hd hk hv hrk
  exact ⟨t, subBytes v, hexec, fun _ hi => byteOf_subBytes v hi, rfl, hrule⟩

/-! ### The assist byte by byte (R110 to R112) -/

theorem byteOfWord_subWord (w : Word) {r : Nat} (hr : r < 4) : byteOfWord (subWord w) r = sbox (byteOfWord w r) := by
  interval_cases r <;> simp [subWord]

theorem wordOf_keyScheduleAssist (v : Block) (rcon : Byte) :
    wordOf (keyScheduleAssist v rcon) 0 = subWord (wordOf v 1) ∧
    wordOf (keyScheduleAssist v rcon) 1 = rotWord (subWord (wordOf v 1)) ^^^ rconWord rcon ∧
    wordOf (keyScheduleAssist v rcon) 2 = subWord (wordOf v 3) ∧
    wordOf (keyScheduleAssist v rcon) 3 = rotWord (subWord (wordOf v 3)) ^^^ rconWord rcon := by
  simp [keyScheduleAssist]

/-- The bytes of a word of a block `o` that is `SubWord` of a word of a block `v`. -/
theorem byteOf_of_subWord {o v : Block} {c e r : Nat} (h : wordOf o c = subWord (wordOf v e)) (hr : r < 4) :
    byteOf o (4 * c + r) = sbox (byteOf v (4 * e + r)) := by
  rw [byteOf_column o c hr, h, byteOfWord_subWord _ hr, byteOf_column v e hr]

/-- The bytes of a word of a block `o` that is `RotWord(SubWord(...))` of a word of a block `v`, xor the round constant. -/
theorem byteOf_of_rotWord {o v : Block} {c e : Nat} {rcon : Byte}
    (h : wordOf o c = rotWord (subWord (wordOf v e)) ^^^ rconWord rcon) :
    byteOf o (4 * c) = sbox (byteOf v (4 * e + 1)) ^^^ rcon ∧ byteOf o (4 * c + 1) = sbox (byteOf v (4 * e + 2)) ∧
    byteOf o (4 * c + 2) = sbox (byteOf v (4 * e + 3)) ∧ byteOf o (4 * c + 3) = sbox (byteOf v (4 * e)) := by
  simp [byteOf_column, byteOf_column_zero, h, rotWord, rconWord, byteOfWord_subWord]

/-- Settles O19: the words are those of R112, and their bytes follow from what `SubWord` and `RotWord` do to a word. -/
theorem keyAssistUpdatesOneLane : Obligations.KeyAssistUpdatesOneLane := by
  unfold Obligations.KeyAssistUpdatesOneLane
  intro s d rcon v hd hv
  obtain ⟨t, hexec, hlane, hframe⟩ := exec_kassist (rcon := rcon) hd hv
  obtain ⟨h0, h1, h2, h3⟩ := wordOf_keyScheduleAssist v rcon
  obtain ⟨h4, h5, h6, h7⟩ := byteOf_of_rotWord h1
  obtain ⟨h12, h13, h14, h15⟩ := byteOf_of_rotWord h3
  have hlow : ∀ i, i < 4 → byteOf (keyScheduleAssist v rcon) i = sbox (byteOf v (4 + i)) := fun i hi => by
    simpa using byteOf_of_subWord h0 hi
  exact ⟨t, keyScheduleAssist v rcon, hexec, hlane, h0, h1, h2, h3, hlow, h4, h5, h6, h7,
    fun _ hi => byteOf_of_subWord h2 hi, h12, h13, h14, h15, hframe⟩

end Sys2Proof.Machine
end

section
/-! SUPPORT. The fold of the key schedule (R132): a shift moves words, four shifts leave nothing, and so the fold is the
running xor, which can be undone; and with it the step of the schedule (R133, R139). -/

namespace Sys2Proof.Machine

/-! ### The shift by one word (R132) -/

theorem wordOf_shlw_zero (b : Block) : wordOf (shlw b) 0 = 0#32 := by
  ext i hi
  simp [wordOf, shlw, hi]

theorem wordOf_shlw_succ (b : Block) {j : Nat} (hj : j < 3) : wordOf (shlw b) (j + 1) = wordOf b j := by
  ext i hi
  simp only [wordOf, shlw, BitVec.getElem_extractLsb', BitVec.getLsbD_shiftLeft]
  simp [show 32 * (j + 1) + i < 128 by omega, show ¬ 32 * (j + 1) + i < 32 by omega,
    show 32 * (j + 1) + i - 32 = 32 * j + i by omega, -BitVec.getLsbD_eq_getElem]

/-- Every word moves one place up, the top word is dropped and zeros enter at the bottom. -/
theorem shlw_blockOfWords (w0 w1 w2 w3 : Word) : shlw (blockOfWords w0 w1 w2 w3) = blockOfWords 0#32 w0 w1 w2 := by
  apply block_eq_of_words <;> simp [wordOf_shlw_zero, wordOf_shlw_succ]

theorem shlw_xor (b c : Block) : shlw (b ^^^ c) = shlw b ^^^ shlw c := BitVec.shiftLeft_xor_distrib b c 32

/-- After four shifts every word has been dropped. -/
theorem shlw_four_times (b : Block) : shlw (shlw (shlw (shlw b))) = 0#128 := by
  simp [shlw, ← BitVec.shiftLeft_add]

/-! ### The fold (R132, R139) -/

/-- `byte_xor_left_comm` for every width, to sort a sum of words or of blocks. -/
theorem bitVec_xor_left_comm {n : Nat} (a b c : BitVec n) : a ^^^ (b ^^^ c) = b ^^^ (a ^^^ c) := by
  rw [← BitVec.xor_assoc, BitVec.xor_comm a, BitVec.xor_assoc]

theorem blockOfWords_xor (v0 v1 v2 v3 w0 w1 w2 w3 : Word) :
    blockOfWords v0 v1 v2 v3 ^^^ blockOfWords w0 w1 w2 w3 =
      blockOfWords (v0 ^^^ w0) (v1 ^^^ w1) (v2 ^^^ w2) (v3 ^^^ w3) := by
  apply block_eq_of_words <;> simp

/-- The words of the fold are the running xors of the words. -/
theorem slXor_blockOfWords (w0 w1 w2 w3 : Word) : slXor (blockOfWords w0 w1 w2 w3) =
    blockOfWords w0 (w0 ^^^ w1) (w0 ^^^ w1 ^^^ w2) (w0 ^^^ w1 ^^^ w2 ^^^ w3) := by
  simp only [slXor, shlw_blockOfWords, blockOfWords_xor, BitVec.xor_zero]
  simp only [BitVec.xor_comm, bitVec_xor_left_comm]

theorem slXor_xor (b c : Block) : slXor (b ^^^ c) = slXor b ^^^ slXor c := by
  simp only [slXor, shlw_xor, BitVec.xor_assoc, bitVec_xor_left_comm]

/-- With `s` for the shift, `(1 + s)(1 + s + s^2 + s^3) = 1 + s^4`, and `s^4` is 0. -/
theorem slXor_xor_shlw_slXor (b : Block) : slXor b ^^^ shlw (slXor b) = b := by
  simp only [slXor, shlw_xor, shlw_four_times, BitVec.xor_assoc]
  simp [bitVec_xor_left_comm]

theorem slXor_injective : Function.Injective slXor :=
  Function.LeftInverse.injective (g := fun b => b ^^^ shlw b) slXor_xor_shlw_slXor

/-- Settles O26: a block is its four words, and the shift and the fold are known on words. -/
theorem foldIsTheRunningXor : Obligations.FoldIsTheRunningXor := by
  unfold Obligations.FoldIsTheRunningXor
  refine ⟨fun b => ⟨wordOf_shlw_zero b, wordOf_shlw_succ b (by decide), wordOf_shlw_succ b (by decide),
    wordOf_shlw_succ b (by decide)⟩, fun _ => rfl, fun b => ?running, by decide, by decide, by decide⟩
  case running =>
    have hfold := slXor_blockOfWords (wordOf b 0) (wordOf b 1) (wordOf b 2) (wordOf b 3)
    rw [blockOfWords_wordOf] at hfold
    simp [hfold]

/-! ### The step of the schedule (R133, R139) -/

/-- What is added to the fold of `lo` depends on `hi` alone. -/
theorem nextLo_injective (hi : Block) (rcon : Byte) : Function.Injective fun lo => nextLo lo hi rcon := fun _ _ h =>
  slXor_injective ((BitVec.xor_left_inj _).1 h)

/-- What is added to the fold of `hi` depends on the new `lo` alone. -/
theorem nextHi_injective (lo' : Block) : Function.Injective (nextHi lo') := fun _ _ h =>
  slXor_injective ((BitVec.xor_left_inj _).1 h)

/-- The new `lo` stands in the result, so `hi` is found first, and `lo` by it. -/
theorem genkeyStep_injective (rcon : Byte) : Function.Injective fun p : Block × Block => genkeyStep p.1 p.2 rcon := by
  rintro ⟨lo, hi⟩ ⟨lo₂, hi₂⟩ h
  obtain ⟨hlo, hhi⟩ := Prod.mk.inj h
  rw [hlo] at hhi
  obtain rfl := nextHi_injective _ hhi
  obtain rfl := nextLo_injective _ _ hlo
  rfl

/-- Settles O27: none of the maps takes two values to one, and there are finitely many blocks. -/
theorem keyScheduleStepIsInvertible : Obligations.KeyScheduleStepIsInvertible := by
  unfold Obligations.KeyScheduleStepIsInvertible
  exact ⟨slXor_xor, Finite.injective_iff_bijective.1 slXor_injective,
    fun hi rcon => Finite.injective_iff_bijective.1 (nextLo_injective hi rcon),
    fun rcon => Finite.injective_iff_bijective.1 (genkeyStep_injective rcon)⟩

end Sys2Proof.Machine
end

section
/-! SUPPORT. The AES-256 recurrence (R135): its words one by one, and its round keys two by two, which are the steps of
the key schedule (R133, R134). -/

namespace Sys2Proof.Machine

/-! ### The words of the recurrence -/

/-- What the recurrence adds to `w[i-8]`, from `w[i-1]`. -/
def fipsStep (i : Nat) (t : Word) : Word :=
  if i % 8 = 0 then rotWord (subWord t) ^^^ rconWord (fipsRcon (i / 8)) else if i % 8 = 4 then subWord t else t

theorem wordOfBytes_xor (a0 a1 a2 a3 c0 c1 c2 c3 : Byte) :
    wordOfBytes a0 a1 a2 a3 ^^^ wordOfBytes c0 c1 c2 c3 =
      wordOfBytes (a0 ^^^ c0) (a1 ^^^ c1) (a2 ^^^ c2) (a3 ^^^ c3) :=
  word_eq_of_bytes fun i hi => by interval_cases i <;> simp

/-- `RotWord(SubWord(t))` with the constant added, byte by byte (R110 to R112). -/
theorem rotWord_subWord_xor_rconWord (t : Word) (rcon : Byte) : rotWord (subWord t) ^^^ rconWord rcon =
    wordOfBytes (sbox (byteOfWord t 1) ^^^ rcon) (sbox (byteOfWord t 2)) (sbox (byteOfWord t 3))
      (sbox (byteOfWord t 0)) := by
  simp [rotWord, subWord, rconWord, wordOfBytes_xor]

/-- `RotWord` and `SubWord` are what the recurrence writes out on bytes. -/
theorem fipsNext_eq (i : Nat) (before : List Word) :
    fipsNext i before = before.getD 7 0#32 ^^^ fipsStep i (before.getD 0 0#32) := by
  rw [fipsStep, rotWord_subWord_xor_rconWord]
  rfl

theorem length_fipsWords (lo hi : Block) (n : Nat) : (fipsWords lo hi n).length = n + 8 := by
  induction n with
  | zero => rfl
  | succ n ih => rw [fipsWords, List.length_cons, ih]

/-- Later words come in front and leave the earlier ones. -/
theorem fipsWords_add_getD (lo hi : Block) (n m k : Nat) :
    (fipsWords lo hi (n + m)).getD (k + m) 0#32 = (fipsWords lo hi n).getD k 0#32 := by
  induction m with
  | zero => rfl
  | succ m ih => rw [← Nat.add_assoc, ← Nat.add_assoc, fipsWords, List.getD_cons_succ, ih]

/-- Wherever the recurrence has got to, its word `j` stands at place `j` from the end. -/
theorem fipsWords_getD (lo hi : Block) {n j : Nat} (hn : n ≤ 32) (hj : j < n + 8) :
    (fipsWords lo hi n).getD (n + 7 - j) 0#32 = fipsWord lo hi j := by
  have hlen : (fipsWords lo hi 32).length = 40 := length_fipsWords lo hi 32
  have hlast := fipsWords_add_getD lo hi n (32 - n) (n + 7 - j)
  rw [show n + (32 - n) = 32 by omega, show n + 7 - j + (32 - n) = 39 - j by omega] at hlast
  rw [← hlast, fipsWord, List.getD_eq_getElem?_getD, List.getD_eq_getElem?_getD, List.getElem?_reverse (by omega),
    hlen]

/-- The recurrence of R135. -/
theorem fipsWord_add_eight (lo hi : Block) {i : Nat} (hlt : i < 32) :
    fipsWord lo hi (i + 8) = fipsWord lo hi i ^^^ fipsStep (i + 8) (fipsWord lo hi (i + 7)) := by
  have hfront := fipsWords_getD lo hi (n := i + 1) (j := i + 8) (by omega) (by omega)
  have hlast := fipsWords_getD lo hi (n := i) (j := i + 7) (by omega) (by omega)
  have hfirst := fipsWords_getD lo hi (n := i) (j := i) (by omega) (by omega)
  rw [show i + 1 + 7 - (i + 8) = 0 by omega, fipsWords, List.getD_cons_zero, fipsNext_eq] at hfront
  rw [Nat.sub_self] at hlast
  rw [Nat.add_sub_cancel_left] at hfirst
  rw [← hfront, hlast, hfirst]

/-! ### The round keys of the recurrence -/

/-- The first two round keys are the key. -/
theorem fipsKey_seed (lo hi : Block) : fipsKey lo hi 0 = lo ∧ fipsKey lo hi 1 = hi := by
  have hseed : ∀ j < 8, fipsWord lo hi j = (fipsWords lo hi 0).getD (7 - j) 0#32 := fun j hj =>
    (fipsWords_getD lo hi (n := 0) (by omega) hj).symm
  simp [fipsKey, hseed, fipsWords, blockOfWords_wordOf]

theorem wordOf_fipsKey_three (lo hi : Block) (r : Nat) : wordOf (fipsKey lo hi r) 3 = fipsWord lo hi (4 * r + 3) :=
  wordOf_blockOfWords_three _ _ _ _

/-- The word `t` enters the first word of a round key, and each other word takes in the word before it; so the fold of
the round key two before has `t` added in every word. -/
theorem fipsKey_add_two (lo hi : Block) {r : Nat} (hr : r < 8) {t : Word}
    (ht : t = fipsStep (4 * r + 8) (fipsWord lo hi (4 * r + 7))) :
    fipsKey lo hi (r + 2) = slXor (fipsKey lo hi r) ^^^ blockOfWords t t t t := by
  have hfirst : fipsWord lo hi (4 * r + 8) = fipsWord lo hi (4 * r) ^^^ t := by
    rw [ht, fipsWord_add_eight lo hi (by omega)]
  have hnext : ∀ c < 3, fipsWord lo hi (4 * r + 8 + (c + 1)) =
      fipsWord lo hi (4 * r + 8 + c) ^^^ fipsWord lo hi (4 * r + (c + 1)) := fun c hc => by
    rw [show 4 * r + 8 + (c + 1) = 4 * r + (c + 1) + 8 by omega, fipsWord_add_eight lo hi (by omega), fipsStep,
      if_neg (by omega), if_neg (by omega), show 4 * r + (c + 1) + 7 = 4 * r + 8 + c by omega, BitVec.xor_comm]
  calc fipsKey lo hi (r + 2)
      = blockOfWords (fipsWord lo hi (4 * r + 8)) (fipsWord lo hi (4 * r + 8 + 1)) (fipsWord lo hi (4 * r + 8 + 2))
          (fipsWord lo hi (4 * r + 8 + 3)) := rfl
    _ = slXor (fipsKey lo hi r) ^^^ blockOfWords t t t t := by
      rw [hnext 2 (by decide), hnext 1 (by decide), hnext 0 (by decide), Nat.add_zero, hfirst, fipsKey,
        slXor_blockOfWords, blockOfWords_xor]
      simp only [BitVec.xor_assoc, BitVec.xor_comm t, Nat.reduceAdd]

/-- An even round key is the next `k_lo` of the two before it (R133). -/
theorem fipsKey_even (lo hi : Block) {k : Nat} (hk : k < 4) :
    fipsKey lo hi (2 * k + 2) = nextLo (fipsKey lo hi (2 * k)) (fipsKey lo hi (2 * k + 1)) (fipsRcon (k + 1)) := by
  refine fipsKey_add_two lo hi (by omega) ?_
  obtain ⟨-, -, -, hassist⟩ := wordOf_keyScheduleAssist (fipsKey lo hi (2 * k + 1)) (fipsRcon (k + 1))
  rw [hassist, wordOf_fipsKey_three, fipsStep, if_pos (by omega), show (4 * (2 * k) + 8) / 8 = k + 1 by omega,
    show 4 * (2 * k + 1) + 3 = 4 * (2 * k) + 7 by omega]

/-- An odd round key is the next `k_hi` of the two before it (R133). -/
theorem fipsKey_odd (lo hi : Block) {k : Nat} (hk : k < 4) :
    fipsKey lo hi (2 * k + 3) = nextHi (fipsKey lo hi (2 * k + 2)) (fipsKey lo hi (2 * k + 1)) := by
  refine fipsKey_add_two lo hi (r := 2 * k + 1) (by omega) ?_
  obtain ⟨-, -, hassist, -⟩ := wordOf_keyScheduleAssist (fipsKey lo hi (2 * k + 2)) 0#8
  rw [hassist, wordOf_fipsKey_three, fipsStep, if_neg (by omega), if_pos (by omega),
    show 4 * (2 * k + 2) + 3 = 4 * (2 * k + 1) + 7 by omega]

/-! ### The expansion (R134) -/

/-- From two round keys of the recurrence, the pairs of the schedule are the `2n` round keys that follow. -/
theorem expandPairs_fipsKey (lo hi : Block) (n k : Nat) (h : k + n ≤ 4) :
    expandPairs (fipsKey lo hi (2 * k)) (fipsKey lo hi (2 * k + 1)) ((List.range' (k + 1) n).map fipsRcon) =
      (List.range' (2 * k + 2) (2 * n)).map (fipsKey lo hi) := by
  induction n generalizing k with
  | zero => rfl
  | succ n ih =>
    have hstep : genkeyStep (fipsKey lo hi (2 * k)) (fipsKey lo hi (2 * k + 1)) (fipsRcon (k + 1)) =
        (fipsKey lo hi (2 * (k + 1)), fipsKey lo hi (2 * (k + 1) + 1)) := by
      rw [genkeyStep, ← fipsKey_even lo hi (by omega), ← fipsKey_odd lo hi (by omega)]
      rfl
    rw [List.range'_succ, List.map_cons, expandPairs, hstep, ih (k + 1) (by omega)]
    rfl

theorem keyExpand_eq_fipsKeys (lo hi : Block) : keyExpand lo hi = (List.range 10).map (fipsKey lo hi) := by
  have hpairs := expandPairs_fipsKey lo hi 4 0 (by decide)
  obtain ⟨hlo, hhi⟩ := fipsKey_seed lo hi
  have hrcon : (List.range' 1 4).map fipsRcon = [0x01#8, 0x02#8, 0x04#8, 0x08#8] := by decide
  rw [Nat.mul_zero, Nat.zero_add, Nat.zero_add, hrcon, hlo, hhi] at hpairs
  calc keyExpand lo hi = lo :: hi :: (List.range' 2 8).map (fipsKey lo hi) := by rw [keyExpand, hpairs]
    _ = fipsKey lo hi 0 :: fipsKey lo hi 1 :: (List.range' 2 8).map (fipsKey lo hi) := by rw [hlo, hhi]
    _ = (List.range 10).map (fipsKey lo hi) := rfl

/-- Settles O25: the schedule and the recurrence are the same list of ten blocks. -/
theorem keyExpansionIsTheAesRecurrence : Obligations.KeyExpansionIsTheAesRecurrence := by
  unfold Obligations.KeyExpansionIsTheAesRecurrence
  intro lo hi r hr
  rw [keyExpand_eq_fipsKeys, List.getElem?_map, List.getElem?_range hr, Option.map_some]

/-- Settles O24: `KEXP` writes the schedule, which is the recurrence. -/
theorem keyExpandWritesTheReferenceKeys : Obligations.KeyExpandWritesTheReferenceKeys := by
  unfold Obligations.KeyExpandWritesTheReferenceKeys
  intro s lo hi h0 h1
  obtain ⟨t, hexec, hkeys, hframe⟩ := exec_kexp h0 h1
  refine ⟨t, hexec, fun j h2 h9 => ?reference, hframe⟩
  case reference =>
    have hkey := hkeys (j - 2) (by omega)
    rw [show 2 + (j - 2) = j by omega] at hkey
    exact hkey.trans (keyExpansionIsTheAesRecurrence lo hi j (by omega))

end Sys2Proof.Machine
end

section
/-! SUPPORT. The commands of the round network, `AESRND` to `NET8`, as one rule: each takes every source lane through the
rounds of its source keys (R114, R150 to R157). -/

namespace Sys2Proof.Machine

/-! ### The pure network, lane by lane -/

/-- Settles O33: the network and the round are maps over the lanes. -/
theorem networkWorksOnEachLaneAlone : Obligations.NetworkWorksOnEachLaneAlone := by
  unfold Obligations.NetworkWorksOnEachLaneAlone
  refine ⟨fun xs ys ks => ?append, fun xs ks j => ?lane, fun xs ys rk => List.map_append⟩
  case append => simp only [net_eq_map, List.map_append]
  case lane =>
    rw [net_eq_map, List.getElem?_map]
    rfl

/-! ### Lanes mapped in place -/

/-- Each lane `j` that holds a value goes through `g j`; an empty lane stays empty. -/
def State.mapLanes (s : State) (g : Nat → Block → Block) : State :=
  { s with x := s.x.mapIdx fun j v => v.map (g j) }

@[simp] theorem State.lane_mapLanes (s : State) (g : Nat → Block → Block) (j : Nat) :
    (s.mapLanes g).lane j = (s.lane j).map (g j) := by
  simp only [State.lane, State.mapLanes, Vector.getElem?_mapIdx]
  cases s.x[j]? <;> rfl

@[simp] theorem State.key_mapLanes (s : State) (g : Nat → Block → Block) (k : Nat) : (s.mapLanes g).key k = s.key k := rfl

/-- The lane file is what its eight lanes read as. -/
theorem State.x_eq_of_lanes {s t : State} (h : ∀ j, j < 8 → t.lane j = s.lane j) : t.x = s.x := by
  refine Vector.ext fun j hj => ?_
  simpa [State.lane, hj] using h j hj

/-- Writing lanes changes the lane file alone. -/
theorem State.setLanes_eq_with_x (s : State) (d : Nat) (vs : List Block) :
    s.setLanes d vs = { s with x := (s.setLanes d vs).x } := by
  induction vs generalizing s d with
  | nil => rfl
  | cons v rest ih => exact ih (s.setLane d v) (d + 1)

/-- Consecutive lanes that hold values, written back through `f`, are mapped in place. -/
theorem State.setLanes_map_lanes {s : State} {d n : Nat} (f : Block → Block) (fits : d + n ≤ 8)
    (held : ∀ j ∈ indices d n, (s.lane j).isSome = true) :
    s.setLanes d ((s.lanes d n).map f) = s.mapLanes fun j b => if j ∈ indices d n then f b else b := by
  have hlen : ((s.lanes d n).map f).length = n := by simp
  have hx : (s.setLanes d ((s.lanes d n).map f)).x =
      (s.mapLanes fun j b => if j ∈ indices d n then f b else b).x := by
    refine State.x_eq_of_lanes fun j _ => ?_
    rw [State.lane_mapLanes]
    by_cases hj : j ∈ indices d n
    case pos =>
      obtain ⟨v, hv⟩ := Option.isSome_iff_exists.1 (held j hj)
      obtain ⟨r, rfl⟩ := Nat.exists_eq_add_of_le (mem_indices.1 hj).1
      have hr : r < n := by have := (mem_indices.1 hj).2; omega
      rw [State.lane_setLanes_inside s r _ (by omega) (by omega)]
      simp [State.lanes, indices, hr, hv, State.laneData_of_some hv]
    case neg =>
      rw [State.lane_setLanes_outside s j _ (by omega) (by rw [mem_indices] at hj; omega)]
      simp [hj]
  rw [State.setLanes_eq_with_x, hx]
  rfl

/-- Two maps of the lanes, each completed, are one. -/
theorem completeCommand_mapLanes_mapLanes (s : State) (g h : Nat → Block → Block) :
    completeCommand ((completeCommand (s.mapLanes g)).mapLanes h) =
      completeCommand (s.mapLanes fun j b => h j (g j b)) := by
  simp [completeCommand, State.mapLanes, Function.comp_def]

/-! ### The rule of the round network's commands -/

/-- The commands that apply rounds to lanes: `AESRND` (R114) and the round network (R153 to R156). -/
def isRoundCommand : Instr → Bool
  | .aesrnd _ _ | .round4 _ _ | .round8 _ | .net4 _ | .net8 => true
  | _ => false

/-- What a round command makes of lane `j`: a source lane goes through one round with each source key in turn (R23, R150,
R151). -/
def roundAction (s : State) (i : Instr) (j : Nat) (b : Block) : Block :=
  if j ∈ sourceLanes i then netLane ((sourceKeys i).map s.keyData) b else b

/-- The source lanes of a round command are consecutive, and they are what its effect writes. -/
theorem commandEffect_of_isRoundCommand {i : Instr} (hi : isRoundCommand i = true) (hwf : i.wellFormed = true) :
    ∃ d n, sourceLanes i = indices d n ∧ d + n ≤ 8 ∧ ∀ t : State,
      commandEffect i t = t.setLanes d ((t.lanes d n).map (netLane ((sourceKeys i).map t.keyData))) := by
  cases i with
  | aesrnd d k =>
    obtain ⟨hd, -⟩ := Bool.and_eq_true_iff.1 hwf
    exact ⟨d.toNat, 1, rfl, Nat.succ_le_succ (isLane_iff_le.1 hd), fun _ => rfl⟩
  | round4 d k =>
    obtain ⟨hd, -⟩ := Bool.and_eq_true_iff.1 hwf
    have fits : d.toNat + 4 ≤ 8 := by rcases isGroupBase_iff_eq.1 hd with rfl | rfl <;> decide
    exact ⟨d.toNat, 4, rfl, fits, fun _ => rfl⟩
  | round8 k => exact ⟨0, 8, rfl, le_rfl, fun _ => rfl⟩
  | net4 d =>
    have fits : d.toNat + 4 ≤ 8 := by rcases isGroupBase_iff_eq.1 hwf with rfl | rfl <;> decide
    exact ⟨d.toNat, 4, rfl, fits, fun t => congrArg (t.setLanes d.toNat) (net_eq_map _ _)⟩
  | net8 => exact ⟨0, 8, rfl, le_rfl, fun t => congrArg (t.setLanes 0) (net_eq_map _ _)⟩
  | _ => cases hi

/-- Only the two top-level commands start the sequencer (R27). -/
theorem startSequencer_of_isRoundCommand {i : Instr} (hi : isRoundCommand i = true) (q : Sequencer) :
    startSequencer i q = q := by
  cases i with
  | explode | implode => cases hi
  | _ => rfl

theorem sourcesHeld_iff {i : Instr} {s : State} : sourcesHeld i s = true ↔
    (∀ j ∈ sourceLanes i, (s.lane j).isSome = true) ∧ ∀ k ∈ sourceKeys i, (s.key k).isSome = true := by
  simp [sourcesHeld]

/-- A legal round command whose sources hold values maps its lanes, and that is all it does. -/
theorem exec_roundCommand {i : Instr} {s : State} (hi : isRoundCommand i = true) (hwf : i.wellFormed = true)
    (held : sourcesHeld i s = true) : exec i s = .next (completeCommand (s.mapLanes (roundAction s i))) := by
  obtain ⟨d, n, hlanes, fits, heffect⟩ := commandEffect_of_isRoundCommand hi hwf
  obtain ⟨heldLanes, -⟩ := sourcesHeld_iff.1 held
  have hmap : commandEffect i (acceptCommand i s) = (acceptCommand i s).mapLanes (roundAction s i) := by
    rw [heffect, State.setLanes_map_lanes _ fits (hlanes ▸ heldLanes), ← hlanes]
    rfl
  rw [exec_completes hwf held, hmap]
  simp [completeCommand, acceptCommand, State.mapLanes, startSequencer_of_isRoundCommand hi]

/-- The frame of a completed map of the lanes. -/
theorem completed_mapLanes (s : State) (g : Nat → Block → Block) :
    sameKeys s (completeCommand (s.mapLanes g)) ∧ sameMemories s (completeCommand (s.mapLanes g)) ∧
      completedFrom s (completeCommand (s.mapLanes g)) :=
  ⟨fun _ => rfl, sameMemories_of_eq rfl rfl, rfl, rfl, rfl, rfl, rfl, rfl, rfl, rfl, rfl, rfl, rfl⟩

/-- The data of round keys that hold values. -/
theorem map_keyData_of_map_key {s : State} {l : List Nat} {ks : List Block} (h : l.map s.key = ks.map some) :
    l.map s.keyData = ks := by
  refine List.map_injective_iff.2 (Option.some_injective Block) ?_
  rw [← h, List.map_map]
  refine List.map_congr_left fun k hk => ?_
  obtain ⟨rk, -, hrk⟩ := List.mem_map.1 (h ▸ List.mem_map_of_mem hk)
  rw [Function.comp_apply, State.keyData_of_some hrk.symm, hrk]

/-- A round command, for sources given by value: lanes `d` to `d + n - 1` go through the rounds of `ks`. -/
theorem exec_roundCommand_updates {i : Instr} {s : State} {d n : Nat} {v : Nat → Block} {ks : List Block}
    (hi : isRoundCommand i = true) (hwf : i.wellFormed = true) (hlanes : sourceLanes i = indices d n)
    (hv : ∀ j, j < n → s.lane (d + j) = some (v j)) (hks : (sourceKeys i).map s.key = ks.map some) :
    ∃ t, exec i s = .next t ∧ (∀ j, j < n → t.lane (d + j) = some (ks.foldl encryptRound (v j))) ∧
      sameLanesExcept s t d n ∧ sameKeys s t ∧ sameMemories s t ∧ completedFrom s t := by
  have held : sourcesHeld i s = true := by
    refine sourcesHeld_iff.2 ⟨fun j hj => ?lanes, fun k hk => ?keys⟩
    case lanes =>
      obtain ⟨r, hr, rfl⟩ := List.mem_map.1 (hlanes ▸ hj)
      rw [hv r (List.mem_range.1 hr)]
      rfl
    case keys =>
      obtain ⟨rk, -, hrk⟩ := List.mem_map.1 (hks ▸ List.mem_map_of_mem hk)
      rw [← hrk]
      rfl
  refine ⟨_, exec_roundCommand hi hwf held, fun j hj => ?inside, fun j hj => ?outside, completed_mapLanes _ _⟩
  case inside =>
    have hmem : d + j ∈ sourceLanes i := by rw [hlanes, mem_indices]; omega
    rw [lane_completeCommand, State.lane_mapLanes, hv j hj, Option.map_some, roundAction, if_pos hmem,
      map_keyData_of_map_key hks]
    rfl
  case outside =>
    have hmem : j ∉ sourceLanes i := by rw [hlanes, mem_indices]; omega
    have hid : roundAction s i j = id := funext fun b => if_neg hmem
    rw [lane_completeCommand, State.lane_mapLanes, hid, Option.map_id, id]

/-- The ten round keys, given one by one. -/
theorem map_key_indices {s : State} {ks : List Block} (hlen : ks.length = 10) (hks : ∀ r, r < 10 → s.key r = ks[r]?) :
    (indices 0 10).map s.key = ks.map some := by
  refine List.ext_getElem (by simp [hlen]) fun r hr hr' => ?_
  have hr10 : r < 10 := by simpa using hr
  simp [indices, hks r hr10, hlen, hr10]

/-- Settles O29: `ROUND4` is a round command with the one source key `K[k]`. -/
theorem fourLaneRoundUpdatesItsGroup : Obligations.FourLaneRoundUpdatesItsGroup := by
  unfold Obligations.FourLaneRoundUpdatesItsGroup
  intro s d k rk v hd hk hv hrk
  exact exec_roundCommand_updates (i := .round4 d k) (ks := [rk]) rfl (Bool.and_eq_true_iff.2 ⟨hd, hk⟩) rfl hv
    (congrArg (fun o => [o]) hrk)

/-- Settles O30: `ROUND8` is the round command on all the lanes, so no lane is left for the frame. -/
theorem eightLaneRoundUpdatesEveryLane : Obligations.EightLaneRoundUpdatesEveryLane := by
  unfold Obligations.EightLaneRoundUpdatesEveryLane
  intro s k rk v hk hv hrk
  obtain ⟨t, hexec, hlanes, -, hframe⟩ := exec_roundCommand_updates (i := .round8 k) (s := s) (d := 0) (n := 8)
    (v := v) (ks := [rk]) rfl hk rfl (by simpa using hv) (congrArg (fun o => [o]) hrk)
  exact ⟨t, hexec, by simpa using hlanes, hframe⟩

/-- Settles O31: `NET4` is a round command whose source keys are `K[0]` to `K[9]`. -/
theorem fourLaneNetworkUpdatesItsGroup : Obligations.FourLaneNetworkUpdatesItsGroup := by
  unfold Obligations.FourLaneNetworkUpdatesItsGroup
  intro s d ks v hd hv hlen hks
  exact exec_roundCommand_updates (i := .net4 d) rfl hd rfl hv (map_key_indices hlen hks)

/-- Settles O32: as for `NET4`, on all the lanes. -/
theorem eightLaneNetworkUpdatesEveryLane : Obligations.EightLaneNetworkUpdatesEveryLane := by
  unfold Obligations.EightLaneNetworkUpdatesEveryLane
  intro s ks v hv hlen hks
  obtain ⟨t, hexec, hlanes, -, hframe⟩ := exec_roundCommand_updates (i := .net8) (s := s) (d := 0) (n := 8)
    (v := v) rfl rfl rfl (by simpa using hv) (map_key_indices hlen hks)
  exact ⟨t, hexec, by simpa using hlanes, hframe⟩

/-! ### Round commands in sequence (R157) -/

@[simp] theorem sourcesHeld_completed_mapLanes (i : Instr) (s : State) (g : Nat → Block → Block) :
    sourcesHeld i (completeCommand (s.mapLanes g)) = sourcesHeld i s := by
  simp [sourcesHeld]

/-- A round command leaves the sources of the next one held and the keys alone, so a run of round commands maps the lanes,
each by the actions in turn. -/
theorem runAll_roundCommands {s : State} (i : Instr) (rest : List Instr)
    (legal : ∀ c ∈ i :: rest, isRoundCommand c = true ∧ c.wellFormed = true ∧ sourcesHeld c s = true) :
    runAll (i :: rest) s =
      .next (completeCommand (s.mapLanes fun j b => (i :: rest).foldl (fun b c => roundAction s c j b) b)) := by
  obtain ⟨hi, hwf, held⟩ := legal i List.mem_cons_self
  rw [runAll_cons (exec_roundCommand hi hwf held)]
  induction rest generalizing s i with
  | nil => rfl
  | cons c rest ih =>
    have legalRest : ∀ c' ∈ c :: rest, isRoundCommand c' = true ∧ c'.wellFormed = true ∧
        sourcesHeld c' (completeCommand (s.mapLanes (roundAction s i))) = true := fun c' hc' => by
      simpa using legal c' (List.mem_cons_of_mem i hc')
    obtain ⟨hc, hcwf, hcheld⟩ := legalRest c List.mem_cons_self
    rw [runAll_cons (exec_roundCommand hc hcwf hcheld), ih c legalRest hc hcwf hcheld, completeCommand_mapLanes_mapLanes]
    rfl

/-- So a round command equals a run of round commands when the actions agree on every lane. -/
theorem exec_eq_runAll_of_roundAction {s : State} {i : Instr} {l : List Instr} (hi : isRoundCommand i = true)
    (hwf : i.wellFormed = true) (held : sourcesHeld i s = true) (hne : l ≠ [])
    (legal : ∀ c ∈ l, isRoundCommand c = true ∧ c.wellFormed = true ∧ sourcesHeld c s = true)
    (agree : ∀ j b, roundAction s i j b = l.foldl (fun b c => roundAction s c j b) b) : exec i s = runAll l s := by
  obtain ⟨c, rest, rfl⟩ := List.exists_cons_of_ne_nil hne
  rw [exec_roundCommand hi hwf held, runAll_roundCommands c rest legal, funext fun j => funext (agree j)]

/-- Commands with the same source keys on lanes that do not overlap: each lane goes through the rounds of the keys once. -/
theorem foldl_roundAction_of_nodup {s : State} {l : List Instr} {keys : List Nat} (hkeys : ∀ c ∈ l, sourceKeys c = keys)
    (nodup : (l.flatMap sourceLanes).Nodup) (j : Nat) (b : Block) :
    l.foldl (fun b c => roundAction s c j b) b =
      if j ∈ l.flatMap sourceLanes then netLane (keys.map s.keyData) b else b := by
  induction l generalizing b with
  | nil => rfl
  | cons c rest ih =>
    obtain ⟨hc, hrest⟩ := List.forall_mem_cons.1 hkeys
    rw [List.flatMap_cons] at nodup
    rw [List.foldl_cons, ih hrest nodup.of_append_right, roundAction, hc]
    by_cases hj : j ∈ sourceLanes c
    case pos =>
      have hnot : j ∉ rest.flatMap sourceLanes := List.disjoint_of_nodup_append nodup hj
      simp only [List.flatMap_cons, List.mem_append, hj, hnot, if_true, if_false, true_or]
    case neg => simp only [List.flatMap_cons, List.mem_append, hj, if_false, false_or]

/-- Commands on the same lanes: each of these lanes goes through the rounds of the source keys of all. -/
theorem foldl_roundAction_of_sourceLanes_eq {s : State} {l : List Instr} {lanes : List Nat}
    (hlanes : ∀ c ∈ l, sourceLanes c = lanes) (j : Nat) (b : Block) :
    l.foldl (fun b c => roundAction s c j b) b =
      if j ∈ lanes then netLane ((l.flatMap sourceKeys).map s.keyData) b else b := by
  induction l generalizing b with
  | nil => exact (ite_self b).symm
  | cons c rest ih =>
    obtain ⟨hc, hrest⟩ := List.forall_mem_cons.1 hlanes
    rw [List.foldl_cons, ih hrest, roundAction, hc]
    split
    case isTrue => simp only [netLane, List.flatMap_cons, List.map_append, List.foldl_append]
    case isFalse => rfl

theorem nodup_sourceLanes {i : Instr} (hi : isRoundCommand i = true) (hwf : i.wellFormed = true) :
    (sourceLanes i).Nodup := by
  obtain ⟨d, n, hlanes, -⟩ := commandEffect_of_isRoundCommand hi hwf
  rw [hlanes]
  exact List.nodup_range.map fun _ _ => Nat.add_left_cancel

/-- A round command is any run of commands with its keys that share out its lanes. -/
theorem exec_eq_runAll_of_lanes_perm {s : State} {i : Instr} {l : List Instr} (hi : isRoundCommand i = true)
    (hwf : i.wellFormed = true) (held : sourcesHeld i s = true) (hne : l ≠ [])
    (hl : ∀ c ∈ l, isRoundCommand c = true ∧ c.wellFormed = true ∧ sourceKeys c = sourceKeys i)
    (perm : (l.flatMap sourceLanes).Perm (sourceLanes i)) : exec i s = runAll l s := by
  obtain ⟨heldLanes, heldKeys⟩ := sourcesHeld_iff.1 held
  refine exec_eq_runAll_of_roundAction hi hwf held hne (fun c hc => ?legal) fun j b => ?agree
  case legal =>
    obtain ⟨hround, hcwf, hkeys⟩ := hl c hc
    have hlanes : sourceLanes c ⊆ sourceLanes i := fun j hj => perm.subset (List.mem_flatMap_of_mem hc hj)
    exact ⟨hround, hcwf, sourcesHeld_iff.2 ⟨fun j hj => heldLanes j (hlanes hj), hkeys ▸ heldKeys⟩⟩
  case agree =>
    have hkeys : ∀ c ∈ l, sourceKeys c = sourceKeys i := fun c hc => let ⟨_, _, h⟩ := hl c hc; h
    have nodup : (l.flatMap sourceLanes).Nodup := perm.nodup_iff.2 (nodup_sourceLanes hi hwf)
    rw [foldl_roundAction_of_nodup hkeys nodup, roundAction]
    exact (if_congr perm.mem_iff rfl rfl).symm

/-- A round command is any run of commands on its lanes that go through its keys in order. -/
theorem exec_eq_runAll_of_keys_eq {s : State} {i : Instr} {l : List Instr} (hi : isRoundCommand i = true)
    (hwf : i.wellFormed = true) (held : sourcesHeld i s = true) (hne : l ≠ [])
    (hl : ∀ c ∈ l, isRoundCommand c = true ∧ c.wellFormed = true ∧ sourceLanes c = sourceLanes i)
    (hkeys : l.flatMap sourceKeys = sourceKeys i) : exec i s = runAll l s := by
  obtain ⟨heldLanes, heldKeys⟩ := sourcesHeld_iff.1 held
  refine exec_eq_runAll_of_roundAction hi hwf held hne (fun c hc => ?legal) fun j b => ?agree
  case legal =>
    obtain ⟨hround, hcwf, hlanes⟩ := hl c hc
    have hsub : sourceKeys c ⊆ sourceKeys i := fun k hk => hkeys ▸ List.mem_flatMap_of_mem hc hk
    exact ⟨hround, hcwf, sourcesHeld_iff.2 ⟨hlanes ▸ heldLanes, fun k hk => heldKeys k (hsub hk)⟩⟩
  case agree =>
    have hlanes : ∀ c ∈ l, sourceLanes c = sourceLanes i := fun c hc => let ⟨_, _, h⟩ := hl c hc; h
    rw [foldl_roundAction_of_sourceLanes_eq hlanes, hkeys, roundAction]

/-- Settles O34: the two narrow commands share out the eight lanes. -/
theorem wideCommandsAreTwoNarrowOnes : Obligations.WideCommandsAreTwoNarrowOnes := by
  unfold Obligations.WideCommandsAreTwoNarrowOnes
  refine ⟨fun s held => ⟨?lowFirst, ?highFirst⟩, fun s k hk held => ?round⟩
  case lowFirst => exact exec_eq_runAll_of_lanes_perm rfl rfl held (by simp) (by decide) (by decide)
  case highFirst => exact exec_eq_runAll_of_lanes_perm rfl rfl held (by simp) (by decide) (by decide)
  case round =>
    refine exec_eq_runAll_of_lanes_perm rfl hk held (by simp) (fun c hc => ?legal) (List.Perm.refl _)
    rcases List.mem_pair.1 hc with rfl | rfl <;> exact ⟨rfl, Bool.and_eq_true_iff.2 ⟨rfl, hk⟩, rfl⟩

/-- The lanes of a group, as the operands of `AESRND` name them. -/
theorem toNat_group {d : BitVec 4} (hd : isGroupBase d = true) :
    [d, d + 1#4, d + 2#4, d + 3#4].map BitVec.toNat = indices d.toNat 4 := by
  rcases isGroupBase_iff_eq.1 hd with rfl | rfl <;> rfl

/-- Settles O35: the ten `ROUND4` go through the keys of `NET4` in order, and the four `AESRND` share out the lanes of
`ROUND4`. -/
theorem narrowCommandsAreSingleRounds : Obligations.NarrowCommandsAreSingleRounds := by
  unfold Obligations.NarrowCommandsAreSingleRounds
  refine ⟨fun s d hd held => ?net, fun s d k l hd hk held hperm => ?round⟩
  case net =>
    refine exec_eq_runAll_of_keys_eq (l := (List.range 10).map fun r => .round4 d (BitVec.ofNat 4 r)) rfl hd held
      (by simp) (fun c hc => ?legalRound) rfl
    obtain ⟨r, hr, rfl⟩ := List.mem_map.1 hc
    have hkey : ∀ r ∈ List.range 10, isKey (BitVec.ofNat 4 r) = true := by decide
    exact ⟨rfl, Bool.and_eq_true_iff.2 ⟨hd, hkey r hr⟩, rfl⟩
  case round =>
    have hlanes : (l.map BitVec.toNat).Perm (indices d.toNat 4) := toNat_group hd ▸ hperm.map BitVec.toNat
    have hne : l ≠ [] := fun hnil => List.cons_ne_nil _ _ (hnil ▸ hperm).symm.eq_nil
    have hshared : (l.map fun x => Instr.aesrnd x k).flatMap sourceLanes = l.map BitVec.toNat :=
      (List.flatMap_map _ _ _).trans List.map_eq_flatMap.symm
    refine exec_eq_runAll_of_lanes_perm rfl (Bool.and_eq_true_iff.2 ⟨hd, hk⟩) held (List.map_eq_nil_iff.not.2 hne)
      (fun c hc => ?legalLane) (hshared ▸ hlanes)
    obtain ⟨x, hx, rfl⟩ := List.mem_map.1 hc
    have hxd := mem_indices.1 (hlanes.subset (List.mem_map_of_mem hx))
    have hlane : x ≤ 7#4 := by rcases isGroupBase_iff_eq.1 hd with rfl | rfl <;> bv_omega
    exact ⟨rfl, Bool.and_eq_true_iff.2 ⟨isLane_iff_le.2 hlane, hk⟩, rfl⟩

end Sys2Proof.Machine
end

section
/-! SUPPORT. The function of R171: its list block by block, the closed form and the single pass (R176, R177), and the command
that stores it (R172). -/

namespace Sys2Proof.Machine

/-! ### The pure function -/

/-- A sweep over two lane groups side by side is the two sweeps, window by window (R157, R177). -/
theorem sweepLanes_append (keys : List Block) (n : Nat) (xs ys : List Block) :
    sweepLanes keys n (xs ++ ys) = List.zipWith (fun a b => a ++ b) (sweepLanes keys n xs) (sweepLanes keys n ys) := by
  induction n generalizing xs ys with
  | zero => rfl
  | succ n ih =>
    have shared : net (xs ++ ys) keys = net xs keys ++ net ys keys := by simp only [net_eq_map, List.map_append]
    rw [sweepLanes, shared, ih]
    rfl

theorem explodeOnePass_eq_explodeFunction (S : Nat → Block) (n : Nat) : explodeOnePass S n = explodeFunction S n :=
  congrArg List.flatten (sweepLanes_append _ n [S 4, S 5, S 6, S 7] [S 8, S 9, S 10, S 11])

theorem length_flatten_sweepLanes (keys : List Block) (n : Nat) (lanes : List Block) :
    (sweepLanes keys n lanes).flatten.length = lanes.length * n := by
  induction n generalizing lanes with
  | zero => rfl
  | succ n ih => rw [sweepLanes, List.flatten_cons, List.length_append, ih, length_net, Nat.mul_succ, Nat.add_comm]

/-- Lane `j` of iteration `m` of a sweep is the network applied `m + 1` times to the lane's start (R176). -/
theorem getElem?_flatten_sweepLanes (keys : List Block) {n m j : Nat} {lanes : List Block} {x : Block} (hm : m < n)
    (hj : lanes[j]? = some x) :
    (sweepLanes keys n lanes).flatten[lanes.length * m + j]? = some ((netLane keys)^[m + 1] x) := by
  induction n generalizing lanes m x with
  | zero => omega
  | succ n ih =>
    have hnet := getElem?_net keys hj
    rw [sweepLanes, List.flatten_cons]
    cases m with
    | zero =>
      have hlt : j < (net lanes keys).length := (List.getElem?_eq_some_iff.1 hnet).1
      rw [Nat.mul_zero, Nat.zero_add, List.getElem?_append_left hlt, hnet]
      rfl
    | succ m =>
      have later := ih (m := m) (by omega) hnet
      rw [length_net] at later
      rw [List.getElem?_append_right (by rw [length_net, Nat.mul_succ]; omega), length_net,
        show lanes.length * (m + 1) + j - lanes.length = lanes.length * m + j by rw [Nat.mul_succ]; omega, later]
      rfl

/-- Element `q` of the list of R171 is the closed form of R176. -/
theorem getElem?_explodeFunction (S : Nat → Block) {n q : Nat} (hq : q < 8 * n) :
    (explodeFunction S n)[q]? = some (explodedBlock S q) := by
  have start : ((List.range 8).map fun j => S (4 + j))[q % 8]? = some (S (4 + q % 8)) := by
    simp [Nat.mod_lt q (show 0 < 8 by omega)]
  have block := getElem?_flatten_sweepLanes (keyExpand (S 0) (S 1)) (n := n) (m := q / 8) (by omega) start
  rw [show ((List.range 8).map fun j => S (4 + j)).length * (q / 8) + q % 8 = q by simp; omega] at block
  rw [← explodeOnePass_eq_explodeFunction]
  exact block

/-- Settles O37: the eight lanes go through the windows together, and a block is the network of the one a window before. -/
theorem explodeClosedForm : Obligations.ExplodeClosedForm := by
  unfold Obligations.ExplodeClosedForm
  refine ⟨fun S n q hq => getElem?_explodeFunction S hq,
    fun S n => ⟨?length, explodeOnePass_eq_explodeFunction S n⟩, fun S q => ?next⟩
  case length =>
    rw [← explodeOnePass_eq_explodeFunction]
    exact length_flatten_sweepLanes _ n _
  case next =>
    rw [explodedBlock, Nat.add_div_right q (by omega), Nat.add_mod_right, Function.iterate_succ_apply']
    rfl

/-! ### The command -/

/-- A sweep of `EXPLODE` over `n` windows from index `i` on leaves every byte outside them as it was. -/
theorem readByte_explodeSweep_outside (keys : List Block) {off n i b : Nat} {lanes : List Block} (s : State) (sp : Space)
    (hlen : off + lanes.length ≤ 8) (h : sp = .pad → b < blockAddress i ∨ blockAddress (i + 8 * n) ≤ b) :
    (explodeSweep keys off n i lanes s).readByte sp b = s.readByte sp b := by
  induction n generalizing i lanes s with
  | zero => rfl
  | succ n ih =>
    simp only [blockAddress] at h ih
    rw [explodeSweep, ih _ (by rwa [length_net]) fun hsp => ?later,
      State.readByte_writeBlocks_outside _ _ _ _ _ _ fun hsp => ?here]
    case later => have := h hsp; omega
    case here =>
      have := h hsp
      rw [length_net, blockAddress, blockAddress]
      omega

/-- A lane group's pass leaves `STATE`, and every byte beyond the windows of `PAD`, as they were (R58). -/
theorem readByte_explodeGroup_outside (keys : List Block) {off b : Nat} (s : State) (sp : Space) (hoff : off ≤ 4)
    (h : sp = .pad → s.geometry.mem ≤ b) : (explodeGroup keys off s).readByte sp b = s.readByte sp b :=
  readByte_explodeSweep_outside keys s sp (by rw [State.length_readBlocks]; omega) fun hsp => by
    have := h hsp
    rw [Geometry.mem] at this
    exact .inr (by rw [blockAddress]; omega)

/-- `EXPLODE` writes the bytes of `PAD` and no others (R172). -/
theorem sameMemoriesExcept_explodeEffect (s : State) :
    sameMemoriesExcept s (explodeEffect s) .pad 0 s.geometry.mem := by
  intro sp b outside
  have beyond (hsp : sp = .pad) : s.geometry.mem ≤ b := by have := outside hsp; omega
  rw [explodeEffect_eq]
  exact (readByte_explodeGroup_outside _ _ sp le_rfl (by rwa [explodeGroup_geometry])).trans
    (readByte_explodeGroup_outside _ s sp (Nat.zero_le 4) beyond)

/-- `EXPLODE` has no register source and so never faults (R172). -/
theorem exec_explode (s : State) :
    exec .explode s = .next (completeCommand (explodeEffect (acceptCommand .explode s))) :=
  exec_completes rfl rfl

/-- The end of both top-level commands leaves no register with a value (R25). -/
theorem registersDestroyed_commandEnd (s : State) :
    registersDestroyed (completeCommand s.destroyRegisters.idleSequencer) :=
  ⟨s.lane_destroyRegisters, s.key_destroyRegisters⟩

/-- Settles O36: the command's blocks are the closed form, which is the function of R171; its two passes write inside `PAD`
alone. -/
theorem explodeFillsTheScratchpad : Obligations.ExplodeFillsTheScratchpad := by
  unfold Obligations.ExplodeFillsTheScratchpad
  intro s
  refine ⟨_, exec_explode s, fun q hq => ?blocks, ?memories, registersDestroyed_commandEnd _, rfl, rfl, rfl,
    sameControl_completed .explode s⟩
  case blocks => rw [readBlock_pad_of_explode (exec_explode s) hq, getElem?_explodeFunction _ hq]
  case memories => exact sameMemoriesExcept_explodeEffect (acceptCommand .explode s)

end Sys2Proof.Machine
end

section
/-! SUPPORT. Runs of a busy engine that the host leaves alone, micro-step by micro-step; and what such a run looks like apart
from the registers and the sequencer, which the end of a top-level command clears (R27, R173, R193). -/

namespace Sys2Proof.Machine

/-! ### Runs -/

/-- A run of one step and more has made its first step. -/
theorem exists_step_of_run_succ {n : Nat} {s t : State} (h : Host.Core.run Sys2Proof.core (n + 1) s = .next t) :
    ∃ u, step s = .next u ∧ Host.Core.run Sys2Proof.core n u = .next t := by
  simp only [Host.Core.run] at h
  split at h
  case h_1 u hu => exact ⟨u, hu, h⟩
  case h_2 => cases h
  case h_3 => cases h

theorem run_succ_of_step {s u : State} (n : Nat) (h : step s = .next u) :
    Host.Core.run Sys2Proof.core (n + 1) s = Host.Core.run Sys2Proof.core n u := by
  have hcore : Sys2Proof.core.step s = .next u := h
  simp only [Host.Core.run, hcore]

/-- A run goes on from where its first part ends. -/
theorem run_add_of_next {m : Nat} (n : Nat) {s t : State} (h : Host.Core.run Sys2Proof.core m s = .next t) :
    Host.Core.run Sys2Proof.core (m + n) s = Host.Core.run Sys2Proof.core n t := by
  induction m generalizing s with
  | zero =>
    cases h
    rw [Nat.zero_add]
  | succ m ih =>
    obtain ⟨u, hstep, hrun⟩ := exists_step_of_run_succ h
    rw [Nat.add_right_comm, run_succ_of_step _ hstep, ih hrun]

/-- The first step of a posted command is its acceptance (R91). -/
theorem run_posted {s : State} {w : Word} {i : Instr} (hp : s.pending = []) (idle : s.status.busy = false)
    (unfaulted : s.status.fault = false) (hdec : decode w = .ok i) (held : sourcesHeld i s = true) :
    Host.Core.run Sys2Proof.core 1 { s with pending := [.ctlWrite 0x00 32 w] } = .next (acceptCommand i s) := by
  have taken : { s with pending := [] } = s := by rw [← hp]
  have posted := step_post (s := { s with pending := [.ctlWrite 0x00 32 w] }) rfl idle
  rw [taken, postCommand_of_decode unfaulted hdec held] at posted
  exact run_succ_of_step 0 posted

/-- The machine goes from `s` to `t` in `n` steps, with `BUSY` 1 before each. -/
def BusyRun (n : Nat) (s t : State) : Prop :=
  Host.Core.run Sys2Proof.core n s = .next t ∧
    ∀ m, m < n → ∃ u : State, Host.Core.run Sys2Proof.core m s = .next u ∧ u.status.busy = true

theorem BusyRun.refl (s : State) : BusyRun 0 s s := ⟨rfl, fun _ hm => absurd hm (Nat.not_lt_zero _)⟩

theorem BusyRun.trans {m n : Nat} {s t u : State} (hst : BusyRun m s t) (htu : BusyRun n t u) : BusyRun (m + n) s u := by
  obtain ⟨toT, busyToT⟩ := hst
  obtain ⟨toU, busyToU⟩ := htu
  refine ⟨(run_add_of_next n toT).trans toU, fun j hj => ?_⟩
  rcases Nat.lt_or_ge j m with early | late
  · exact busyToT j early
  · obtain ⟨i, rfl⟩ := Nat.exists_eq_add_of_le late
    rw [run_add_of_next i toT]
    exact busyToU i (by omega)

/-- A micro-step of a busy engine that the host leaves alone. -/
theorem BusyRun.microStep {s t : State} (hp : s.pending = []) (busy : s.status.busy = true)
    (h : engineStep s = .next t) : BusyRun 1 s t := by
  refine ⟨run_succ_of_step 0 ((step_busy hp busy).trans h), fun m hm => ?_⟩
  obtain rfl : m = 0 := by omega
  exact ⟨s, rfl, busy⟩

/-! ### The state without what the engine holds for the command -/

/-- The state with the registers destroyed and the sequencer idle, as the end of a top-level command leaves it (R25, R27). -/
def State.cleared (s : State) : State := s.destroyRegisters.idleSequencer

@[simp] theorem State.cleared_geometry (s : State) : s.cleared.geometry = s.geometry := rfl

@[simp] theorem State.cleared_with_seq (s : State) (q : Sequencer) : { s with seq := q }.cleared = s.cleared := rfl

@[simp] theorem State.cleared_setLanes (s : State) (d : Nat) (vs : List Block) : (s.setLanes d vs).cleared = s.cleared := by
  induction vs generalizing s d with
  | nil => rfl
  | cons v rest ih => exact ih (s.setLane d v) (d + 1)

@[simp] theorem State.cleared_setKeys (s : State) (k : Nat) (vs : List Block) : (s.setKeys k vs).cleared = s.cleared := by
  induction vs generalizing s k with
  | nil => rfl
  | cons v rest ih => exact ih (s.setKey k v) (k + 1)

/-- Memory writes touch neither registers nor sequencer. -/
theorem State.cleared_writeBytes (s : State) (sp : Space) (a : Nat) (vs : List Byte) :
    (s.writeBytes sp a vs).cleared = s.cleared.writeBytes sp a vs := by
  induction vs generalizing s a with
  | nil => rfl
  | cons v rest ih =>
    have first : (s.writeByte sp a v).cleared = s.cleared.writeByte sp a v := by cases sp <;> rfl
    rw [State.writeBytes, ih, first, State.writeBytes]

@[simp] theorem State.cleared_writeBlocks (s : State) (sp : Space) (i : Nat) (vs : List Block) :
    (s.writeBlocks sp i vs).cleared = s.cleared.writeBlocks sp i vs := by
  induction vs generalizing s i with
  | nil => rfl
  | cons v rest ih =>
    rw [State.writeBlocks, ih, State.writeBlock, State.cleared_writeBytes, State.writeBlocks, State.writeBlock]

theorem cleared_explodeSweep (keys : List Block) (off n i : Nat) (lanes : List Block) (s : State) :
    (explodeSweep keys off n i lanes s).cleared = explodeSweep keys off n i lanes s.cleared := by
  induction n generalizing i lanes s with
  | zero => rfl
  | succ n ih => rw [explodeSweep, ih, State.cleared_writeBlocks, explodeSweep]

theorem cleared_explodeGroup (keys : List Block) (off : Nat) (s : State) :
    (explodeGroup keys off s).cleared = explodeGroup keys off s.cleared :=
  cleared_explodeSweep keys off s.geometry.windows 0 (s.readBlocks .state (4 + off) 4) s

/-! ### The registers as lists of blocks -/

/-- Lanes that were written read back as written. -/
theorem State.lanes_setLanes (s : State) {d n : Nat} {vs : List Block} (hlen : vs.length = n) (fits : d + n ≤ 8) :
    (s.setLanes d vs).lanes d n = vs := by
  refine List.ext_getElem (by simp [hlen]) fun j _ hj => ?_
  have written := State.laneData_of_some (s.lane_setLanes_inside j vs (hlen ▸ fits) hj)
  simpa [State.lanes, indices] using written

/-- The ten round keys that were written read back as written. -/
theorem State.keys_setKeys (s : State) {vs : List Block} (hlen : vs.length = 10) : (s.setKeys 0 vs).keys = vs := by
  refine List.ext_getElem (by simp [State.keys, hlen]) fun k _ hk => ?_
  have written := State.keyData_of_some (s.key_setKeys_inside (k := 0) k vs (by omega) hk)
  simpa [State.keys, indices] using written

/-- The lanes are read through the lane file alone. -/
theorem State.lanes_congr {s t : State} (h : t.x = s.x) (d n : Nat) : t.lanes d n = s.lanes d n :=
  List.map_congr_left fun j _ => congrArg (Option.getD · _) (State.lane_congr h j)

/-- The round keys are read through the round-key file alone. -/
theorem State.keys_congr {s t : State} (h : t.k = s.k) : t.keys = s.keys :=
  List.map_congr_left fun j _ => congrArg (Option.getD · _) (State.key_congr h j)

end Sys2Proof.Machine
end

section
/-! SUPPORT. The expander row by row (R173): after each load the sweep rows are the sweep of R172, so the rows end where the
command ends. -/

namespace Sys2Proof.Machine

/-- The expander is at work in phase `p` with `IDX = i` and the host leaves it alone; `K[0..9]` are `keys`, and apart from the
registers and the sequencer the state is `c`. -/
structure ExpanderAt (p : Phase) (i : Nat) (keys : List Block) (c s : State) : Prop where
  pending : s.pending = []
  busy : s.status.busy = true
  seq : s.seq = ⟨.explode, p, i⟩
  keys : s.keys = keys
  cleared : s.cleared = c

section
variable {p : Phase} {i : Nat} {keys : List Block} {c s t : State}

theorem ExpanderAt.phase (h : ExpanderAt p i keys c s) : s.seq.phase = p := by rw [h.seq]

theorem ExpanderAt.idx (h : ExpanderAt p i keys c s) : s.seq.idx = i := by rw [h.seq]

theorem ExpanderAt.geometry (h : ExpanderAt p i keys c s) : s.geometry = c.geometry := by
  rw [← h.cleared, State.cleared_geometry]

theorem ExpanderAt.readBlock (h : ExpanderAt p i keys c s) (sp : Space) (b : Nat) :
    s.readBlock sp b = c.readBlock sp b := by
  rw [← h.cleared, State.cleared, readBlock_destroyRegisters_idleSequencer]

/-- The next step is the row of the phase. -/
theorem ExpanderAt.busyRun_row (h : ExpanderAt p i keys c s) (row : explodeRow s = t) : BusyRun 1 s t :=
  .microStep h.pending h.busy (row ▸ engineStep_explode (by rw [h.seq]))

end

/-! ### The rows of a lane group -/

/-- The load row of R173 for the lane group whose blocks stand at `off` in `STATE[4..11]`, before its phase `sweep`. -/
def explodeLoadRow (off : Nat) (sweep : Phase) (s : State) : State :=
  { s.setLanes 0 (s.readBlocks .state (4 + off) 4) with seq := { s.seq with phase := sweep, idx := 0 } }

/-- `load` and `sweep` are the phases of the lane group whose blocks stand at `off`. -/
structure GroupRows (load sweep : Phase) (off : Nat) : Prop where
  load : ∀ s : State, s.seq.phase = load → explodeRow s = explodeLoadRow off sweep s
  sweep : ∀ s : State, s.seq.phase = sweep → s.seq.idx < s.geometry.blocks → explodeRow s = explodeSweepRow off s

theorem groupRows_a : GroupRows .loadA .sweepA 0 := ⟨fun _ => explodeRow_loadA, fun _ => explodeRow_sweepA⟩

theorem groupRows_b : GroupRows .loadB .sweepB 4 := ⟨fun _ => explodeRow_loadB, fun _ => explodeRow_sweepB⟩

section
variable {load sweep : Phase} {off i : Nat} {keys : List Block} {c s : State}

theorem ExpanderAt.loadRow (h : ExpanderAt load i keys c s) :
    ExpanderAt sweep 0 keys c (explodeLoadRow off sweep s) where
  pending := by simp [explodeLoadRow, h.pending]
  busy := by simp [explodeLoadRow, h.busy]
  seq := by simp [explodeLoadRow, h.seq]
  keys := (State.keys_congr (by simp [explodeLoadRow])).trans h.keys
  cleared := by rw [explodeLoadRow, State.cleared_with_seq, State.cleared_setLanes, h.cleared]

/-- The load row loads the group's start lanes. -/
theorem ExpanderAt.lanes_loadRow (h : ExpanderAt load i keys c s) :
    (explodeLoadRow off sweep s).lanes 0 4 = c.readBlocks .state (4 + off) 4 := by
  calc (explodeLoadRow off sweep s).lanes 0 4
      = (s.setLanes 0 (s.readBlocks .state (4 + off) 4)).lanes 0 4 := State.lanes_congr (by simp [explodeLoadRow]) 0 4
    _ = s.readBlocks .state (4 + off) 4 := s.lanes_setLanes (s.length_readBlocks .state (4 + off) 4) (by omega)
    _ = c.readBlocks .state (4 + off) 4 := List.map_congr_left fun b _ => h.readBlock .state b

theorem cleared_explodeSweepRow (off : Nat) (s : State) : (explodeSweepRow off s).cleared =
    s.cleared.writeBlocks .pad (s.seq.idx + off) (net (s.lanes 0 4) s.keys) := by
  rw [explodeSweepRow, State.cleared_with_seq, State.cleared_writeBlocks, State.cleared_setLanes]

/-- A sweep row stores the next quadruplet. -/
theorem ExpanderAt.sweepRow (h : ExpanderAt sweep i keys c s) :
    ExpanderAt sweep (i + 8) keys (c.writeBlocks .pad (i + off) (net (s.lanes 0 4) keys)) (explodeSweepRow off s) where
  pending := by simp [explodeSweepRow, h.pending]
  busy := by simp [explodeSweepRow, h.busy]
  seq := by simp [explodeSweepRow, h.seq]
  keys := (State.keys_congr (by simp [explodeSweepRow])).trans h.keys
  cleared := by rw [cleared_explodeSweepRow, h.cleared, h.idx, h.keys]

theorem ExpanderAt.lanes_sweepRow (h : ExpanderAt sweep i keys c s) :
    (explodeSweepRow off s).lanes 0 4 = net (s.lanes 0 4) keys := by
  rw [← h.keys]
  calc (explodeSweepRow off s).lanes 0 4
      = (s.setLanes 0 (net (s.lanes 0 4) s.keys)).lanes 0 4 := State.lanes_congr (by simp [explodeSweepRow]) 0 4
    _ = net (s.lanes 0 4) s.keys := s.lanes_setLanes (by simp) (by omega)

/-- The sweep rows from `IDX = i` to the end of `PAD` are the sweep of R172 over the `n` windows that are left. -/
theorem GroupRows.busyRun_sweep (rows : GroupRows load sweep off) {n : Nat} (h : ExpanderAt sweep i keys c s)
    (left : i + 8 * n = c.geometry.blocks) :
    ∃ t, BusyRun n s t ∧
      ExpanderAt sweep c.geometry.blocks keys (explodeSweep keys off n i (s.lanes 0 4) c) t := by
  induction n generalizing i c s with
  | zero => exact ⟨s, .refl s, left ▸ h⟩
  | succ n ih =>
    have row := rows.sweep s h.phase (by rw [h.idx, h.geometry]; omega)
    obtain ⟨t, run, atEnd⟩ := ih (h.sweepRow (off := off)) (by rw [State.writeBlocks_geometry]; omega)
    rw [h.lanes_sweepRow, State.writeBlocks_geometry] at atEnd
    exact ⟨t, Nat.add_comm 1 n ▸ (h.busyRun_row row).trans run, atEnd⟩

/-- The load row and the sweep rows of a lane group are the group's pass of R172. -/
theorem GroupRows.busyRun_group (rows : GroupRows load sweep off) (h : ExpanderAt load i keys c s) :
    ∃ t, BusyRun (1 + c.geometry.windows) s t ∧ ExpanderAt sweep c.geometry.blocks keys (explodeGroup keys off c) t := by
  obtain ⟨t, run, atEnd⟩ := rows.busyRun_sweep (n := c.geometry.windows) (h.loadRow (off := off) (sweep := sweep))
    (Nat.zero_add _)
  rw [h.lanes_loadRow] at atEnd
  exact ⟨t, (h.busyRun_row (rows.load s h.phase)).trans run, atEnd⟩

end

/-! ### The whole run -/

/-- The key row fills `K[0..9]`. -/
theorem ExpanderAt.keyRow {i : Nat} {keys ks : List Block} {c s : State} (h : ExpanderAt .keygen i keys c s)
    (hlen : ks.length = 10) :
    ExpanderAt .loadA i ks c { s.setKeys 0 ks with seq := { s.seq with phase := .loadA } } where
  pending := by simp [h.pending]
  busy := by simp [h.busy]
  seq := by simp [h.seq]
  keys := (State.keys_congr rfl).trans (s.keys_setKeys hlen)
  cleared := (State.cleared_setKeys s 0 ks).trans h.cleared

theorem busyRun_keygen {i : Nat} {keys : List Block} {c s : State} (h : ExpanderAt .keygen i keys c s) :
    ∃ t, BusyRun 1 s t ∧ ExpanderAt .loadA i (keyExpand (c.readBlock .state 0) (c.readBlock .state 1)) c t := by
  refine ⟨_, h.busyRun_row (explodeRow_keygen h.phase), ?_⟩
  rw [h.readBlock, h.readBlock]
  exact h.keyRow (length_keyExpand _ _)

/-- The row that ends group A's sweep goes on to group B. -/
theorem busyRun_sweepA_end {keys : List Block} {c s : State} (h : ExpanderAt .sweepA c.geometry.blocks keys c s) :
    ∃ t, BusyRun 1 s t ∧ ExpanderAt .loadB c.geometry.blocks keys c t :=
  ⟨_, h.busyRun_row (explodeRow_sweepA_end h.phase (by rw [h.idx, h.geometry]; omega)),
    h.pending, h.busy, by simp [h.seq], h.keys, h.cleared⟩

/-- The row that ends group B's sweep ends the command. -/
theorem busyRun_sweepB_end {keys : List Block} {c s : State} (h : ExpanderAt .sweepB c.geometry.blocks keys c s) :
    BusyRun 1 s (completeCommand c) :=
  h.busyRun_row <| by
    rw [explodeRow_sweepB_end h.phase (by rw [h.idx, h.geometry]; omega)]
    exact congrArg completeCommand h.cleared

/-- The rows from acceptance on are the command's effect and its completion (R172, R173). -/
theorem busyRun_explodeEffect {i : Nat} {keys : List Block} {s : State} (h : ExpanderAt .keygen i keys s.cleared s) :
    BusyRun (2 * s.geometry.windows + 5) s (completeCommand (explodeEffect s)) := by
  obtain ⟨keyed, runKeys, atA⟩ := busyRun_keygen h
  obtain ⟨sweptA, runA, atEndA⟩ := groupRows_a.busyRun_group atA
  obtain ⟨between, runBetween, atB⟩ := busyRun_sweepA_end (by rwa [explodeGroup_geometry])
  obtain ⟨sweptB, runB, atEndB⟩ := groupRows_b.busyRun_group atB
  rw [State.cleared_geometry] at runA
  rw [explodeGroup_geometry, State.cleared_geometry] at runB
  have runEnd := busyRun_sweepB_end (by rwa [explodeGroup_geometry])
  have run := (((runKeys.trans runA).trans runBetween).trans runB).trans runEnd
  rwa [← cleared_explodeGroup, ← cleared_explodeGroup, show 1 + (1 + s.geometry.windows) + 1 +
    (1 + s.geometry.windows) + 1 = 2 * s.geometry.windows + 5 by omega] at run

/-- Settles O40: acceptance leaves the expander in its first phase, and its rows run to the end of the command. -/
theorem expanderRowsRunToTheCommand : Obligations.ExpanderRowsRunToTheCommand := by
  unfold Obligations.ExpanderRowsRunToTheCommand
  rintro s hp ⟨idle, unfaulted⟩
  have accepted := run_posted (w := 0x00000040#32) (i := .explode) hp idle unfaulted rfl rfl
  obtain ⟨ends, busy⟩ := busyRun_explodeEffect (s := acceptCommand .explode s) ⟨hp, rfl, rfl, rfl, rfl⟩
  refine ⟨?result, fun m hm => ?busy⟩
  case result =>
    rw [run_add_of_next _ accepted]
    exact ends.trans (exec_explode s).symm
  case busy =>
    rw [run_add_of_next m accepted]
    exact busy m hm

end Sys2Proof.Machine
end

section
/-! SUPPORT. The command `IMPLODE` (R192): it never faults, and its two stores stay inside `STATE[4..11]`. -/

namespace Sys2Proof.Machine

/-- A lane group's store leaves `PAD`, and every byte of `STATE` outside the group's four blocks, as they were. -/
theorem readByte_implodeGroup_outside (keys : List Block) {off b : Nat} (s : State) (sp : Space)
    (h : sp = .state → b < blockAddress (4 + off) ∨ blockAddress (8 + off) ≤ b) :
    (implodeGroup keys off s).readByte sp b = s.readByte sp b := by
  have hlen := length_implodeSweep_le keys (s.readBlock .pad) off s.geometry.windows 0 (s.readBlocks .state (4 + off) 4)
  rw [State.length_readBlocks] at hlen
  simp only [blockAddress] at h
  refine State.readByte_writeBlocks_outside _ _ _ _ _ _ fun hsp => ?_
  have := h hsp
  simp only [blockAddress]
  omega

/-- `IMPLODE` writes the bytes of `STATE[4..11]` and no others (R192). -/
theorem sameMemoriesExcept_implodeEffect (s : State) :
    sameMemoriesExcept s (implodeEffect s) .state (blockAddress 4) 128 := by
  intro sp b outside
  simp only [blockAddress] at outside
  rw [implodeEffect_eq]
  exact (readByte_implodeGroup_outside (off := 4) _ _ sp fun hsp => by
      have := outside hsp; simp only [blockAddress]; omega).trans
    (readByte_implodeGroup_outside (off := 0) _ s sp fun hsp => by
      have := outside hsp; simp only [blockAddress]; omega)

/-- `IMPLODE` has no register source and so never faults (R192). -/
theorem exec_implode (s : State) :
    exec .implode s = .next (completeCommand (implodeEffect (acceptCommand .implode s))) :=
  exec_completes rfl rfl

/-- Settles O38: the two groups' stores hold the eight chains, and they write inside `STATE[4..11]` alone. -/
theorem implodeFoldsTheScratchpad : Obligations.ImplodeFoldsTheScratchpad := by
  unfold Obligations.ImplodeFoldsTheScratchpad
  intro s
  refine ⟨_, exec_implode s, fun j hj => ?chains, ?memories, registersDestroyed_commandEnd _, rfl, rfl, rfl,
    sameControl_completed .implode s⟩
  case chains => exact readBlock_state_of_implode (exec_implode s) hj
  case memories => exact sameMemoriesExcept_implodeEffect (acceptCommand .implode s)

end Sys2Proof.Machine
end

section
/-! SUPPORT. The folder row by row (R193): between a group's load and its store the memories stand still and the lanes go
through the sweep of R192, so the rows end where the command ends. -/

namespace Sys2Proof.Machine

/-- The folder is at work in phase `p` with `IDX = i` and the host leaves it alone; `K[0..9]` are `keys`, `X[0..3]` are
`lanes`, and apart from the registers and the sequencer the state is `c`. -/
structure FolderAt (p : Phase) (i : Nat) (keys lanes : List Block) (c s : State) : Prop where
  pending : s.pending = []
  busy : s.status.busy = true
  seq : s.seq = ⟨.implode, p, i⟩
  keys : s.keys = keys
  lanes : s.lanes 0 4 = lanes
  cleared : s.cleared = c

section
variable {p : Phase} {i : Nat} {keys lanes : List Block} {c s t : State}

theorem FolderAt.phase (h : FolderAt p i keys lanes c s) : s.seq.phase = p := by rw [h.seq]

theorem FolderAt.idx (h : FolderAt p i keys lanes c s) : s.seq.idx = i := by rw [h.seq]

theorem FolderAt.geometry (h : FolderAt p i keys lanes c s) : s.geometry = c.geometry := by
  rw [← h.cleared, State.cleared_geometry]

theorem FolderAt.readBlock (h : FolderAt p i keys lanes c s) (sp : Space) (b : Nat) :
    s.readBlock sp b = c.readBlock sp b := by
  rw [← h.cleared, State.cleared, readBlock_destroyRegisters_idleSequencer]

theorem FolderAt.readBlocks (h : FolderAt p i keys lanes c s) (sp : Space) (b n : Nat) :
    s.readBlocks sp b n = c.readBlocks sp b n :=
  List.map_congr_left fun q _ => h.readBlock sp q

/-- The next step is the row of the phase. -/
theorem FolderAt.busyRun_row (h : FolderAt p i keys lanes c s) (row : implodeRow s = t) : BusyRun 1 s t :=
  .microStep h.pending h.busy (row ▸ engineStep_implode (by rw [h.seq]))

/-! ### What the rows do to the folder -/

/-- A row that only moves the sequencer on. -/
theorem FolderAt.moveOn (h : FolderAt p i keys lanes c s) (p' : Phase) :
    FolderAt p' i keys lanes c { s with seq := { s.seq with phase := p' } } :=
  ⟨h.pending, h.busy, by simp [h.seq], h.keys, h.lanes, h.cleared⟩

/-- A row that fills `K[0..9]` before it moves the sequencer on. -/
theorem FolderAt.setKeys (h : FolderAt p i keys lanes c s) {ks : List Block} (hlen : ks.length = 10) (p' : Phase) :
    FolderAt p' i ks lanes c { s.setKeys 0 ks with seq := { s.seq with phase := p' } } where
  pending := by simp [h.pending]
  busy := by simp [h.busy]
  seq := by simp [h.seq]
  keys := (State.keys_congr rfl).trans (s.keys_setKeys hlen)
  lanes := (State.lanes_congr (by simp) 0 4).trans h.lanes
  cleared := (State.cleared_setKeys s 0 ks).trans h.cleared

/-- A row that fills `X[0..3]` before it moves the sequencer on. -/
theorem FolderAt.setLanes (h : FolderAt p i keys lanes c s) {xs : List Block} (hlen : xs.length = 4) (p' : Phase)
    (i' : Nat) : FolderAt p' i' keys xs c { s.setLanes 0 xs with seq := { s.seq with phase := p', idx := i' } } where
  pending := by simp [h.pending]
  busy := by simp [h.busy]
  seq := by simp [h.seq]
  keys := (State.keys_congr (by simp)).trans h.keys
  lanes := (State.lanes_congr rfl 0 4).trans (s.lanes_setLanes hlen (by omega))
  cleared := (State.cleared_setLanes s 0 xs).trans h.cleared

/-- A row that stores blocks before it moves the sequencer on. -/
theorem FolderAt.writeBlocks (h : FolderAt p i keys lanes c s) (sp : Space) (b : Nat) (vs : List Block) (p' : Phase) :
    FolderAt p' i keys lanes (c.writeBlocks sp b vs)
      { s.writeBlocks sp b vs with seq := { s.seq with phase := p' } } where
  pending := by simp [h.pending]
  busy := by simp [h.busy]
  seq := by simp [h.seq]
  keys := (State.keys_congr (by simp)).trans h.keys
  lanes := (State.lanes_congr (by simp) 0 4).trans h.lanes
  cleared := by rw [State.cleared_with_seq, State.cleared_writeBlocks, h.cleared]

end

/-! ### The rows of a lane group -/

/-- `load`, `sweep` and `store` are the phases of the lane group whose blocks stand at `off` in `STATE[4..11]` and in each
window of `PAD`, by the load and sweep rows of R193. -/
structure FolderGroupRows (load sweep store : Phase) (off : Nat) : Prop where
  loadRow : ∀ s : State, s.seq.phase = load → implodeRow s =
    { s.setLanes 0 (s.readBlocks .state (4 + off) 4) with seq := { s.seq with phase := sweep, idx := 0 } }
  sweepRow : ∀ s : State, s.seq.phase = sweep → s.seq.idx < s.geometry.blocks → implodeRow s = implodeSweepRow off s
  sweptRow : ∀ s : State, s.seq.phase = sweep → ¬ s.seq.idx < s.geometry.blocks →
    implodeRow s = { s with seq := { s.seq with phase := store } }

theorem folderGroupRows_a : FolderGroupRows .loadA .sweepA .storeA 0 :=
  ⟨fun _ => implodeRow_loadA, fun _ => implodeRow_sweepA, fun _ => implodeRow_sweepA_end⟩

theorem folderGroupRows_b : FolderGroupRows .loadB .sweepB .storeB 4 :=
  ⟨fun _ => implodeRow_loadB, fun _ => implodeRow_sweepB, fun _ => implodeRow_sweepB_end⟩

section
variable {load sweep store : Phase} {off i : Nat} {keys lanes : List Block} {c s : State}

/-- A sweep row folds the next quadruplet of `PAD` into the lanes. -/
theorem FolderAt.sweepRow (h : FolderAt sweep i keys lanes c s) (hlen : lanes.length = 4) :
    FolderAt sweep (i + 8) keys (net (xorLanes lanes (c.readBlocks .pad (i + off) 4)) keys) c
      (implodeSweepRow off s) := by
  have next := h.setLanes (xs := net (xorLanes lanes (c.readBlocks .pad (i + off) 4)) keys) (by simp [hlen]) sweep (i + 8)
  simp only [h.seq] at next
  simp only [implodeSweepRow, h.seq, h.keys, h.lanes, h.readBlocks]
  exact next

/-- The sweep rows from `IDX = i` to the end of `PAD` are the sweep of R192 over the `n` windows that are left. -/
theorem FolderGroupRows.busyRun_sweep (rows : FolderGroupRows load sweep store off) {n : Nat}
    (h : FolderAt sweep i keys lanes c s) (hlen : lanes.length = 4) (left : i + 8 * n = c.geometry.blocks) :
    ∃ t, BusyRun n s t ∧
      FolderAt sweep c.geometry.blocks keys (implodeSweep keys (c.readBlock .pad) off n i lanes) c t := by
  induction n generalizing i lanes s with
  | zero => exact ⟨s, .refl s, left ▸ h⟩
  | succ n ih =>
    have row := rows.sweepRow s h.phase (by rw [h.idx, h.geometry]; omega)
    obtain ⟨t, run, atEnd⟩ := ih (h.sweepRow (off := off) hlen) (by simp [hlen]) (by omega)
    exact ⟨t, Nat.add_comm 1 n ▸ (h.busyRun_row row).trans run, atEnd⟩

/-- The rows of a lane group up to its store leave in `X[0..3]` what the group's pass of R192 stores. -/
theorem FolderGroupRows.busyRun_group (rows : FolderGroupRows load sweep store off)
    (h : FolderAt load i keys lanes c s) :
    ∃ t, BusyRun (1 + c.geometry.windows + 1) s t ∧
      FolderAt store c.geometry.blocks keys
        (implodeSweep keys (c.readBlock .pad) off c.geometry.windows 0 (c.readBlocks .state (4 + off) 4)) c t := by
  have runLoad := h.busyRun_row (rows.loadRow s h.phase)
  have loaded := h.setLanes (s.length_readBlocks .state (4 + off) 4) sweep 0
  obtain ⟨t, runSweep, atEnd⟩ := rows.busyRun_sweep loaded (State.length_readBlocks _ _ _ _) (Nat.zero_add _)
  have runSwept := atEnd.busyRun_row (rows.sweptRow t atEnd.phase (by rw [atEnd.idx, atEnd.geometry]; omega))
  rw [h.readBlocks] at atEnd
  exact ⟨_, (runLoad.trans runSweep).trans runSwept, atEnd.moveOn store⟩

end

/-! ### The whole run -/

section
variable {i : Nat} {keys lanes : List Block} {c s : State}

/-- The key row expands the folder's key blocks into `K[0..9]`. -/
theorem busyRun_folderKeygen (h : FolderAt .keygen i keys lanes c s) :
    ∃ t, BusyRun 1 s t ∧ FolderAt .loadA i (keyExpand (c.readBlock .state 2) (c.readBlock .state 3)) lanes c t := by
  refine ⟨_, h.busyRun_row (implodeRow_keygen h.phase), ?_⟩
  rw [h.readBlock, h.readBlock]
  exact h.setKeys (length_keyExpand _ _) .loadA

/-- Group A's store goes on to group B. -/
theorem busyRun_storeA (h : FolderAt .storeA i keys lanes c s) :
    ∃ t, BusyRun 1 s t ∧ FolderAt .loadB i keys lanes (c.writeBlocks .state 4 lanes) t := by
  refine ⟨_, h.busyRun_row (implodeRow_storeA h.phase), ?_⟩
  rw [h.lanes]
  exact h.writeBlocks .state 4 lanes .loadB

/-- Group B's store ends the command. -/
theorem busyRun_storeB (h : FolderAt .storeB i keys lanes c s) :
    BusyRun 1 s (completeCommand (c.writeBlocks .state 8 lanes)) :=
  h.busyRun_row <| by
    rw [implodeRow_storeB h.phase, h.lanes, ← h.cleared, ← State.cleared_writeBlocks]
    rfl

end

theorem cleared_implodeGroup (keys : List Block) (off : Nat) (s : State) :
    (implodeGroup keys off s).cleared = implodeGroup keys off s.cleared :=
  State.cleared_writeBlocks _ _ _ _

/-- The rows from acceptance on are the command's effect and its completion (R192, R193). -/
theorem busyRun_implodeEffect {i : Nat} {keys lanes : List Block} {s : State}
    (h : FolderAt .keygen i keys lanes s.cleared s) :
    BusyRun (2 * s.geometry.windows + 7) s (completeCommand (implodeEffect s)) := by
  obtain ⟨keyed, runKeys, atA⟩ := busyRun_folderKeygen h
  obtain ⟨foldedA, runA, atStoreA⟩ := folderGroupRows_a.busyRun_group atA
  obtain ⟨storedA, runStoreA, atB⟩ := busyRun_storeA atStoreA
  obtain ⟨foldedB, runB, atStoreB⟩ := folderGroupRows_b.busyRun_group atB
  rw [State.cleared_geometry] at runA
  rw [State.writeBlocks_geometry, State.cleared_geometry] at runB
  have run := (((runKeys.trans runA).trans runStoreA).trans runB).trans (busyRun_storeB atStoreB)
  rw [show 1 + (1 + s.geometry.windows + 1) + 1 + (1 + s.geometry.windows + 1) + 1 = 2 * s.geometry.windows + 7 by
    omega] at run
  rw [implodeEffect_eq, ← State.cleared, cleared_implodeGroup, cleared_implodeGroup]
  exact run

/-- Settles O41: acceptance leaves the folder in its first phase, and its rows run to the end of the command. -/
theorem folderRowsRunToTheCommand : Obligations.FolderRowsRunToTheCommand := by
  unfold Obligations.FolderRowsRunToTheCommand
  rintro s hp ⟨idle, unfaulted⟩
  have accepted := run_posted (w := 0x00000041#32) (i := .implode) hp idle unfaulted rfl rfl
  obtain ⟨ends, busy⟩ := busyRun_implodeEffect (s := acceptCommand .implode s) ⟨hp, rfl, rfl, rfl, rfl, rfl⟩
  refine ⟨?result, fun m hm => ?busy⟩
  case result =>
    rw [run_add_of_next _ accepted]
    exact ends.trans (exec_implode s).symm
  case busy =>
    rw [run_add_of_next m accepted]
    exact busy m hm

end Sys2Proof.Machine
end

section
/-! SUPPORT. Register transfer (R210 to R215): the loads are the rules of a command that writes one register, the stores the
rule of a command that writes one block. -/

namespace Sys2Proof.Machine

/-! ### The loads (R210, R212) -/

/-- Settles O14: `LDX` writes one lane, so the rule of the commands that write lanes applies. -/
theorem loadLaneReadsTheStateBlock : Obligations.LoadLaneReadsTheStateBlock := by
  unfold Obligations.LoadLaneReadsTheStateBlock
  intro s d b hd hb
  have hexec := exec_completes (i := .ldx d b) (s := s) (Bool.and_eq_true_iff.2 ⟨hd, hb⟩) rfl
  have fits : d.toNat + 1 ≤ 8 := Nat.succ_le_succ (isLane_iff_le.1 hd)
  obtain ⟨hlane, hframe⟩ := completed_setLanes (i := .ldx d b) (vs := [s.readBlock .state b.toNat]) fits rfl rfl
  exact ⟨_, hexec, hlane 0 Nat.one_pos, hframe⟩

/-- Settles O16: the rule of `LDK` that `KEYGEN` is made of. -/
theorem loadKeyReadsTheStateBlock : Obligations.LoadKeyReadsTheStateBlock := by
  unfold Obligations.LoadKeyReadsTheStateBlock
  intro s k b hk hb
  exact exec_ldk hk hb

/-! ### The stores (R211, R213) -/

theorem sameMemories_acceptCommand (i : Instr) (s : State) : sameMemories s (acceptCommand i s) :=
  sameMemories_of_eq rfl rfl

theorem sameMemories_completeCommand (s : State) : sameMemories s (completeCommand s) :=
  sameMemories_of_eq rfl rfl

/-- A legal command that leaves the sequencer alone and whose effect is to write one block of memory. -/
theorem exec_writesBlock {i : Instr} {s : State} {sp : Space} {b : Nat} {v : Block} (hwf : i.wellFormed = true)
    (held : sourcesHeld i s = true) (hseq : startSequencer i s.seq = s.seq)
    (heffect : commandEffect i (acceptCommand i s) = (acceptCommand i s).writeBlock sp b v) :
    ∃ t, exec i s = .next t ∧ t.readBlock sp b = v ∧ sameMemoriesExcept s t sp (blockAddress b) 16 ∧
      sameLanes s t ∧ sameKeys s t ∧ completedFrom s t := by
  have hexec : exec i s = .next (completeCommand ((acceptCommand i s).writeBlock sp b v)) := by
    rw [exec_completes hwf held, heffect]
  refine ⟨_, hexec, ?written, fun sp' a ha => ?others, State.lane_congr (by simp), State.key_congr (by simp), rfl, rfl,
    by simpa using hseq, by simp [sameControl]⟩
  case written => rw [(sameMemories_completeCommand _).readBlock, State.readBlock_writeBlock_same]
  case others =>
    rw [sameMemories_completeCommand, State.readByte_writeBlock_outside _ _ _ _ _ _ ha, sameMemories_acceptCommand]

/-- Settles O15: the block that `STX` writes is the lane, which acceptance has left alone. -/
theorem storeLaneWritesTheStateBlock : Obligations.StoreLaneWritesTheStateBlock := by
  unfold Obligations.StoreLaneWritesTheStateBlock
  intro s d b v hd hb hv
  have held : sourcesHeld (.stx d b) s = true := by simp [sourcesHeld, sourceLanes, sourceKeys, hv]
  refine exec_writesBlock (Bool.and_eq_true_iff.2 ⟨hd, hb⟩) held rfl ?_
  rw [commandEffect, State.laneData_of_some ((lane_acceptCommand _ _ _).trans hv)]

/-- Settles O17: the block that `STK` writes is the round key, which acceptance has left alone. -/
theorem storeKeyWritesTheStateBlock : Obligations.StoreKeyWritesTheStateBlock := by
  unfold Obligations.StoreKeyWritesTheStateBlock
  intro s k b v hk hb hv
  have held : sourcesHeld (.stk k b) s = true := by simp [sourcesHeld, sourceLanes, sourceKeys, hv]
  refine exec_writesBlock (Bool.and_eq_true_iff.2 ⟨hk, hb⟩) held rfl ?_
  rw [commandEffect, State.keyData_of_some ((key_acceptCommand _ _ _).trans hv)]

end Sys2Proof.Machine
end

section
/-! SUPPORT. The exceptions: the words that meet a fault and what the fault writes (R231 to R234), what a halted engine still
does (R235, R236), and the idle engine (R245). -/

namespace Sys2Proof.Machine

/-! ### The sources of a command (R23) -/

/-- The machine's check fails exactly when one of the registers it looks at holds no value. -/
theorem sourcesHeld_eq_false_iff {i : Instr} {s : State} : sourcesHeld i s = false ↔
    (∃ d ∈ sourceLanes i, s.lane d = none) ∨ ∃ k ∈ sourceKeys i, s.key k = none := by
  rw [← Bool.not_eq_true, sourcesHeld_iff, not_and_or]
  simp only [not_forall, Option.not_isSome_iff_eq_none, exists_prop]

theorem exists_mem_indices {first n : Nat} {p : Nat → Prop} :
    (∃ j ∈ indices first n, p j) ↔ ∃ j, j < n ∧ p (first + j) := by
  simp [indices]

/-- The registers that the machine looks at are those of R23, row by row. -/
theorem sourcesHeld_eq_false_iff_sourceEmpty (s : State) (i : Instr) : sourcesHeld i s = false ↔ sourceEmpty s i := by
  rw [sourcesHeld_eq_false_iff]
  cases i with
  | ldx | stx | ldk | stk | aesrnd | kassist | kexp | explode | implode =>
    simp [sourceLanes, sourceKeys, sourceEmpty]
  | round4 | round8 | net4 | net8 => simp [sourceLanes, sourceKeys, sourceEmpty, exists_mem_indices]

/-! ### The fault of a command word (R231 to R233) -/

/-- The fault that a word meets at issue, before it has any effect. A word that decodes has no operand out of range, so only
its sources are left to check. -/
inductive MeetsFault (s : State) (w : Word) : Cause → Prop where
  /-- no command has this word (R231) -/
  | illegalCmd {e : IllegalWord} (h : decode w = .error e) : MeetsFault s w .illegalCmd
  /-- a source of the command holds no value (R232) -/
  | noValue {i : Instr} (h : decode w = .ok i) (empty : sourcesHeld i s = false) : MeetsFault s w .noValue

/-- A word meets a fault, or it is that of a command whose sources hold values. -/
theorem meetsFault_or_held (s : State) (w : Word) :
    (∃ c, MeetsFault s w c) ∨ ∃ i, decode w = .ok i ∧ sourcesHeld i s = true := by
  cases hdec : decode w with
  | error e => exact .inl ⟨_, .illegalCmd hdec⟩
  | ok i =>
    cases held : sourcesHeld i s with
    | false => exact .inl ⟨_, .noValue hdec held⟩
    | true => exact .inr ⟨i, rfl, held⟩

/-- The cause says whether the word decodes (R233). -/
theorem MeetsFault.cause {s : State} {w : Word} {c : Cause} (h : MeetsFault s w c) :
    c = .illegalCmd ∧ (∃ e, decode w = .error e) ∨ c = .noValue ∧ ∃ i, decode w = .ok i := by
  cases h with
  | illegalCmd hdec => exact .inl ⟨rfl, _, hdec⟩
  | noValue hdec => exact .inr ⟨rfl, _, hdec⟩

/-- A command with an empty source faults when it is run (R232). -/
theorem exec_noValue {i : Instr} {s : State} (hwf : i.wellFormed = true) (empty : sourcesHeld i s = false) :
    exec i s = .next (raiseFault .noValue (encode i) s) := by
  rw [exec_eq_runCommand, runCommand_noValue _ hwf empty]

theorem callCommand_of_meetsFault {s : State} {w : Word} {c : Cause} (unfaulted : s.status.fault = false)
    (h : MeetsFault s w c) : callCommand w s = .next (raiseFault c w s) := by
  cases h with
  | illegalCmd hdec => simp [callCommand, unfaulted, hdec]
  | noValue hdec empty =>
    obtain ⟨hwf, hw⟩ := decode_eq_ok_iff.1 hdec
    rw [callCommand_of_decode unfaulted hdec, exec_noValue hwf empty, hw]

theorem postCommand_of_meetsFault {s : State} {w : Word} {c : Cause} (unfaulted : s.status.fault = false)
    (h : MeetsFault s w c) : postCommand w s = raiseFault c w s := by
  cases h with
  | illegalCmd hdec => simp [postCommand, unfaulted, hdec]
  | noValue hdec empty =>
    obtain ⟨hwf, -⟩ := decode_eq_ok_iff.1 hdec
    simp [postCommand, unfaulted, hdec, commandFault_noValue hwf empty]

theorem callCommand_of_halted {s : State} (w : Word) (halted : s.status.fault = true) : callCommand w s = .next s := by
  simp [callCommand, halted]

theorem postCommand_of_halted {s : State} (w : Word) (halted : s.status.fault = true) : postCommand w s = s := by
  simp [postCommand, halted]

/-! ### A write of a word to `CMD`, in either form (R91) -/

section
variable {s : State} {w : Word} {a : HostAction} {rest : List HostAction}

/-- Where the two forms of write come to the same state, it does not matter which one the host makes. -/
theorem step_commandWrite {t : State} (hp : s.pending = a :: rest) (form : a = .call w ∨ a = .ctlWrite 0x00 32 w)
    (idle : s.status.busy = false) (called : callCommand w { s with pending := rest } = .next t)
    (posted : postCommand w { s with pending := rest } = t) : step s = .next t := by
  obtain rfl | rfl := form
  · exact (step_call hp idle).trans called
  · exact (step_post hp idle).trans (congrArg _ posted)

/-- The word of a command with an empty source, or of no command, raises its fault. -/
theorem step_commandWrite_of_meetsFault {c : Cause} (hp : s.pending = a :: rest)
    (form : a = .call w ∨ a = .ctlWrite 0x00 32 w) (ready : s.ready) (h : MeetsFault { s with pending := rest } w c) :
    step s = .next (raiseFault c w { s with pending := rest }) := by
  obtain ⟨idle, unfaulted⟩ := ready
  exact step_commandWrite hp form idle (callCommand_of_meetsFault unfaulted h) (postCommand_of_meetsFault unfaulted h)

/-- The step that raises a fault has the frame of R234, but for the action that it takes. -/
theorem step_faultedFrom_of_meetsFault {c : Cause} (hp : s.pending = a :: rest)
    (form : a = .call w ∨ a = .ctlWrite 0x00 32 w) (ready : s.ready) (h : MeetsFault { s with pending := rest } w c) :
    ∃ t, step s = .next t ∧ faultedFrom s t c w ∧ statusWord t.status = statusWord (faulted c) ∧ t.pending = rest := by
  refine ⟨_, step_commandWrite_of_meetsFault hp form ready h, ?frame, rfl, rfl⟩
  obtain ⟨idle, fault, cause, cmd, -, -, -, others⟩ := faultedFrom_raiseFault c w { s with pending := rest }
  exact ⟨idle, fault, cause, cmd, fun _ => rfl, fun _ => rfl, sameMemories_of_eq rfl rfl, others⟩

/-- A command whose sources hold values raises no fault: it completes or is accepted, which leaves the fault bits. -/
theorem unfaulted_of_step_commandWrite {t : State} {i : Instr} (hp : s.pending = a :: rest)
    (form : a = .call w ∨ a = .ctlWrite 0x00 32 w) (ready : s.ready) (hdec : decode w = .ok i)
    (held : sourcesHeld i { s with pending := rest } = true) (h : step s = .next t) : t.status.fault = false := by
  obtain ⟨idle, unfaulted⟩ := ready
  obtain rfl | rfl := form
  · obtain ⟨hwf, -⟩ := decode_eq_ok_iff.1 hdec
    rw [step_call hp idle, callCommand_of_decode (s := { s with pending := rest }) unfaulted hdec,
      exec_completes hwf held] at h
    cases h
    obtain ⟨sameFault, -⟩ := sameControl_completed i { s with pending := rest }
    exact sameFault.trans unfaulted
  · rw [step_post hp idle, postCommand_of_decode (s := { s with pending := rest }) unfaulted hdec held] at h
    cases h
    exact unfaulted

end

/-! ### The faults (R231 to R234) -/

theorem statusWord_faulted_illegalCmd : statusWord (faulted .illegalCmd) = 0x00000012#32 := by decide

theorem statusWord_faulted_noValue : statusWord (faulted .noValue) = 0x00000022#32 := by decide

/-- Settles O8: the word meets `ILLEGAL_CMD`. -/
theorem illegalWordRaisesIllegalCmd : Obligations.IllegalWordRaisesIllegalCmd := by
  unfold Obligations.IllegalWordRaisesIllegalCmd
  intro s w e a rest hp form ready hdec
  rw [← statusWord_faulted_illegalCmd]
  exact step_faultedFrom_of_meetsFault hp form ready (.illegalCmd hdec)

/-- Settles O9: the registers checked are those of R23, and with one of them empty the command meets `NO_VALUE`. -/
theorem emptySourceRaisesNoValue : Obligations.EmptySourceRaisesNoValue := by
  unfold Obligations.EmptySourceRaisesNoValue
  refine ⟨sourcesHeld_eq_false_iff_sourceEmpty, fun s i hwf empty => ?run,
    fun s w i a rest hp form ready hdec empty => ?written⟩
  case run =>
    have notHeld := (sourcesHeld_eq_false_iff_sourceEmpty s i).2 empty
    exact ⟨_, exec_noValue hwf notHeld, faultedFrom_raiseFault _ _ s, statusWord_faulted_noValue, rfl⟩
  case written =>
    have notHeld := (sourcesHeld_eq_false_iff_sourceEmpty s i).2 empty
    rw [← statusWord_faulted_noValue]
    exact step_faultedFrom_of_meetsFault hp form ready (.noValue hdec notHeld)

/-- Settles O11: a word that meets no fault leaves `FAULT` 0, so the step is the one that takes the fault the word meets. -/
theorem faultWritesOnlyStatusAndFaultcmd : Obligations.FaultWritesOnlyStatusAndFaultcmd := by
  unfold Obligations.FaultWritesOnlyStatusAndFaultcmd
  intro s t w a rest hp form ready h fault
  rcases meetsFault_or_held { s with pending := rest } w with ⟨c, hc⟩ | ⟨i, hdec, held⟩
  · rw [step_commandWrite_of_meetsFault hp form ready hc] at h
    cases h
    exact ⟨c, hc.cause, rfl⟩
  · have unfaulted := unfaulted_of_step_commandWrite hp form ready hdec held h
    simp [unfaulted] at fault

/-! ### The halted and the idle engine (R235, R236, R245) -/

/-- Settles O12: neither form of write looks at the word. -/
theorem haltedEngineDiscardsCommands : Obligations.HaltedEngineDiscardsCommands := by
  unfold Obligations.HaltedEngineDiscardsCommands
  intro s w a rest hp form halted idle
  exact step_commandWrite hp form idle (callCommand_of_halted w halted) (postCommand_of_halted w halted)

/-- All that the host can still change of a halted engine: its own queue and replies, `CFG`, and the memories. -/
def SameButHostAccess (s t : State) : Prop :=
  ∃ queue prefetch replies stateMem padMem,
    t = { s with pending := queue, prefetchEn := prefetch, replies := replies, stateMem := stateMem, padMem := padMem }

theorem SameButHostAccess.withPending (s : State) (queue : List HostAction) :
    SameButHostAccess s { s with pending := queue } := ⟨queue, _, _, _, _, rfl⟩

/-- A host action other than reset, on an engine that a fault has halted. -/
theorem sameButHostAccess_of_hostStep {s t : State} {a : HostAction} {rest : List HostAction}
    (halted : s.status.fault = true) (idle : s.status.busy = false) (notReset : a ≠ .reset)
    (h : hostStep a s { s with pending := rest } = .next t) : SameButHostAccess s t := by
  cases a with
  | call w =>
    simp only [hostStep, idle, callCommand_of_halted w (s := { s with pending := rest }) halted] at h
    cases h
    exact .withPending s rest
  | ctlWrite offset width v =>
    simp only [hostStep, idle, Bool.false_and, ctlWrite,
      postCommand_of_halted v (s := { s with pending := rest }) halted] at h
    cases h
    split_ifs
    · exact .withPending s rest
    · exact ⟨rest, v.getLsbD 0, _, _, _, rfl⟩
    · exact .withPending s rest
    · exact .withPending s rest
  | ctlRead offset width =>
    cases h
    exact ⟨rest, _, _, _, _, rfl⟩
  | memWrite sp addr bytes =>
    obtain ⟨-, -, rfl⟩ := hostWrite_cases h
    obtain ⟨m, hm⟩ := State.writeBytes_eq_setMem { s with pending := rest } sp addr bytes
    rw [hm]
    cases sp with
    | state => exact ⟨rest, _, _, m, _, rfl⟩
    | pad => exact ⟨rest, _, _, _, m, rfl⟩
  | memRead sp addr n =>
    obtain rfl := hostRead_cases h
    exact ⟨rest, _, _, _, _, rfl⟩
  | tick =>
    simp only [hostStep, idle] at h
    cases h
    exact .withPending s rest
  | reset => exact absurd rfl notReset

/-- A step of a halted engine that is not a reset. -/
theorem sameButHostAccess_of_step {s t : State} (halted : s.status.fault = true) (idle : s.status.busy = false)
    (notReset : s.pending.head? ≠ some .reset) (h : step s = .next t) : SameButHostAccess s t := by
  cases hp : s.pending with
  | nil =>
    rw [step_idle hp idle] at h
    cases h
    exact .withPending s s.pending
  | cons a rest =>
    rw [hp, List.head?_cons, ne_eq, Option.some.injEq] at notReset
    exact sameButHostAccess_of_hostStep halted idle notReset (step_action hp ▸ h)

/-- Settles O13: by the invariant a faulted engine is not busy, and then only the host's access is left. -/
theorem onlyResetLeavesTheHalt : Obligations.OnlyResetLeavesTheHalt := by
  unfold Obligations.OnlyResetLeavesTheHalt
  intro s t inv halted notReset h
  obtain ⟨-, notBoth, -⟩ := inv.status
  have idle : s.status.busy = false := by simpa [halted] using notBoth
  obtain ⟨_, _, _, _, _, rfl⟩ := sameButHostAccess_of_step halted idle notReset h
  exact ⟨rfl, rfl, fun _ => rfl, fun _ => rfl, rfl⟩

/-- Settles O53: with an empty queue and `BUSY` 0 the port waits. -/
theorem idleEngineKeepsItsState : Obligations.IdleEngineKeepsItsState := by
  unfold Obligations.IdleEngineKeepsItsState
  intro s hp idle
  exact step_idle hp idle

end Sys2Proof.Machine
end

section
/-! SUPPORT. Every command in progress ends: from any point of a run, the rows that are left of the expander or the folder, or
the one micro-step of a component command (R173, R193, R273; log 12). -/

namespace Sys2Proof.Machine

/-- Left alone, the engine is idle within `n` micro-steps, with the sequencer at rest. -/
def EndsWithin (n : Nat) (s : State) : Prop :=
  ∃ m, m ≤ n ∧ ∃ t : State, Host.Core.run Sys2Proof.core m s = .next t ∧ t.status.busy = false ∧
    t.seq = restingSequencer

theorem EndsWithin.mono {m n : Nat} {s : State} (h : EndsWithin m s) (hmn : m ≤ n) : EndsWithin n s := by
  obtain ⟨k, hk, t, run, ends⟩ := h
  exact ⟨k, hk.trans hmn, t, run, ends⟩

theorem BusyRun.endsWithin {m n : Nat} {s u : State} (first : BusyRun m s u) (h : EndsWithin n u) :
    EndsWithin (m + n) s := by
  obtain ⟨toU, -⟩ := first
  obtain ⟨k, hk, t, run, ends⟩ := h
  exact ⟨m + k, Nat.add_le_add_left hk m, t, (run_add_of_next k toU).trans run, ends⟩

theorem endsWithin_completeCommand {s : State} (rests : s.seq = restingSequencer) : EndsWithin 0 (completeCommand s) :=
  ⟨0, le_rfl, _, rfl, rfl, rests⟩

/-- An index that is a multiple of 8 and at most `N` leaves a whole number of windows to sweep (R28). -/
theorem exists_windows_left {g : Geometry} {idx : Nat} (hmod : idx % 8 = 0) (hle : idx ≤ g.blocks) :
    ∃ n, n ≤ g.windows ∧ idx + 8 * n = g.blocks := by
  have hblocks : g.blocks = 8 * g.windows := rfl
  exact ⟨g.windows - idx / 8, by omega, by omega⟩

/-! ### A component command -/

/-- The accepted component command is done in one micro-step (R273, log 12). -/
theorem busyRun_component {s : State} {i : Instr} (hp : s.pending = []) (busy : s.status.busy = true)
    (rests : s.seq = restingSequencer) (hr : s.running = some i) (hwf : i.wellFormed = true)
    (held : sourcesHeld i s = true) : BusyRun 1 s (completeCommand (commandEffect i (acceptCommand i s))) :=
  .microStep hp busy <| (engineStep_component (by rw [rests, restingSequencer]) hr).trans (exec_completes hwf held)

/-! ### The expander from each of its phases -/

section
variable {i n : Nat} {keys : List Block} {c s : State}

theorem ExpanderAt.endsWithin_of_sweepB (h : ExpanderAt .sweepB i keys c s) (left : i + 8 * n = c.geometry.blocks) :
    EndsWithin (n + 1) s := by
  obtain ⟨t, sweep, atEnd⟩ := groupRows_b.busyRun_sweep h left
  have last := busyRun_sweepB_end (by rwa [explodeSweep_geometry])
  exact sweep.endsWithin (last.endsWithin (endsWithin_completeCommand (by rw [← atEnd.cleared]; rfl)))

theorem ExpanderAt.endsWithin_of_loadB (h : ExpanderAt .loadB i keys c s) : EndsWithin (c.geometry.windows + 2) s :=
  ((h.busyRun_row (groupRows_b.load s h.phase)).endsWithin
    (h.loadRow.endsWithin_of_sweepB (Nat.zero_add _))).mono (by omega)

theorem ExpanderAt.endsWithin_of_sweepA (h : ExpanderAt .sweepA i keys c s) (left : i + 8 * n = c.geometry.blocks) :
    EndsWithin (n + c.geometry.windows + 3) s := by
  obtain ⟨t, sweep, atEnd⟩ := groupRows_a.busyRun_sweep h left
  obtain ⟨u, swept, atB⟩ := busyRun_sweepA_end (by rwa [explodeSweep_geometry])
  have groupB := atB.endsWithin_of_loadB
  rw [explodeSweep_geometry] at groupB
  exact (sweep.endsWithin (swept.endsWithin groupB)).mono (by omega)

theorem ExpanderAt.endsWithin_of_loadA (h : ExpanderAt .loadA i keys c s) :
    EndsWithin (2 * c.geometry.windows + 4) s :=
  ((h.busyRun_row (groupRows_a.load s h.phase)).endsWithin
    (h.loadRow.endsWithin_of_sweepA (Nat.zero_add _))).mono (by omega)

theorem ExpanderAt.endsWithin_of_keygen (h : ExpanderAt .keygen i keys c s) :
    EndsWithin (2 * c.geometry.windows + 5) s := by
  obtain ⟨t, keyed, atA⟩ := busyRun_keygen h
  exact (keyed.endsWithin atA.endsWithin_of_loadA).mono (by omega)

end

/-- An expander that meets the invariant ends, whichever phase it is in (R173). -/
theorem State.Inv.endsWithin_of_explode {s : State} (h : s.Inv) (hp : s.pending = []) (hr : s.running = some .explode) :
    EndsWithin (2 * s.geometry.windows + 7) s := by
  obtain ⟨busy, -, hop, hin, hmod, hle, -⟩ := h.of_running hr
  have expanderAt {p : Phase} (phase : s.seq.phase = p) : ExpanderAt p s.seq.idx s.keys s.cleared s :=
    ⟨hp, busy, by rw [← phase, ← hop], rfl, rfl⟩
  obtain ⟨n, hn, left⟩ := exists_windows_left hmod hle
  cases phase : s.seq.phase with
  | keygen => exact (expanderAt phase).endsWithin_of_keygen.mono (by simp)
  | loadA => exact (expanderAt phase).endsWithin_of_loadA.mono (by simp)
  | sweepA => exact ((expanderAt phase).endsWithin_of_sweepA left).mono (by simp; omega)
  | loadB => exact (expanderAt phase).endsWithin_of_loadB.mono (by simp; omega)
  | sweepB => exact ((expanderAt phase).endsWithin_of_sweepB left).mono (by omega)
  | storeA | storeB | idle => simp [phase] at hin

/-! ### The folder from each of its phases -/

section
variable {load sweep store : Phase} {off i m n : Nat} {keys lanes : List Block} {c s : State}

theorem FolderAt.length_lanes {p : Phase} (h : FolderAt p i keys lanes c s) : lanes.length = 4 := by
  rw [← h.lanes, State.length_lanes]

/-- From the sweep of a lane group, the windows that are left and the row that leaves the sweep come before the store. -/
theorem FolderGroupRows.endsWithin_of_sweep (rows : FolderGroupRows load sweep store off)
    (h : FolderAt sweep i keys lanes c s) (left : i + 8 * n = c.geometry.blocks)
    (fromStore : ∀ ls t, FolderAt store c.geometry.blocks keys ls c t → EndsWithin m t) : EndsWithin (n + 1 + m) s := by
  obtain ⟨t, swept, atEnd⟩ := rows.busyRun_sweep h h.length_lanes left
  have leaves := atEnd.busyRun_row (rows.sweptRow t atEnd.phase (by rw [atEnd.idx, atEnd.geometry]; omega))
  exact (swept.trans leaves).endsWithin (fromStore _ _ (atEnd.moveOn store))

/-- From the load of a lane group, all windows are left. -/
theorem FolderGroupRows.endsWithin_of_load (rows : FolderGroupRows load sweep store off)
    (h : FolderAt load i keys lanes c s)
    (fromStore : ∀ ls t, FolderAt store c.geometry.blocks keys ls c t → EndsWithin m t) :
    EndsWithin (c.geometry.windows + 2 + m) s := by
  have loaded := h.setLanes (s.length_readBlocks .state (4 + off) 4) sweep 0
  exact ((h.busyRun_row (rows.loadRow s h.phase)).endsWithin
    (rows.endsWithin_of_sweep loaded (Nat.zero_add _) fromStore)).mono (by omega)

theorem FolderAt.endsWithin_of_storeB (h : FolderAt .storeB i keys lanes c s) : EndsWithin 1 s :=
  (busyRun_storeB h).endsWithin (endsWithin_completeCommand (by rw [← h.cleared, ← State.cleared_writeBlocks]; rfl))

theorem FolderAt.endsWithin_of_storeA (h : FolderAt .storeA i keys lanes c s) :
    EndsWithin (c.geometry.windows + 4) s := by
  obtain ⟨t, stored, atB⟩ := busyRun_storeA h
  have groupB := folderGroupRows_b.endsWithin_of_load atB fun _ _ => FolderAt.endsWithin_of_storeB
  rw [State.writeBlocks_geometry] at groupB
  exact (stored.endsWithin groupB).mono (by omega)

theorem FolderAt.endsWithin_of_loadA (h : FolderAt .loadA i keys lanes c s) :
    EndsWithin (2 * c.geometry.windows + 6) s :=
  (folderGroupRows_a.endsWithin_of_load h fun _ _ => FolderAt.endsWithin_of_storeA).mono (by omega)

theorem FolderAt.endsWithin_of_keygen (h : FolderAt .keygen i keys lanes c s) :
    EndsWithin (2 * c.geometry.windows + 7) s := by
  obtain ⟨t, keyed, atA⟩ := busyRun_folderKeygen h
  exact (keyed.endsWithin atA.endsWithin_of_loadA).mono (by omega)

end

/-- A folder that meets the invariant ends, whichever phase it is in (R193). -/
theorem State.Inv.endsWithin_of_implode {s : State} (h : s.Inv) (hp : s.pending = []) (hr : s.running = some .implode) :
    EndsWithin (2 * s.geometry.windows + 7) s := by
  obtain ⟨busy, -, hop, notIdle, hmod, hle, -⟩ := h.of_running hr
  have folderAt {p : Phase} (phase : s.seq.phase = p) :
      FolderAt p s.seq.idx s.keys (s.lanes 0 4) s.cleared s :=
    ⟨hp, busy, by rw [← phase, ← hop], rfl, rfl, rfl⟩
  obtain ⟨n, hn, left⟩ := exists_windows_left hmod hle
  cases phase : s.seq.phase with
  | keygen => exact (folderAt phase).endsWithin_of_keygen
  | loadA => exact (folderAt phase).endsWithin_of_loadA.mono (by simp)
  | sweepA =>
    exact (folderGroupRows_a.endsWithin_of_sweep (folderAt phase) left
      fun _ _ => FolderAt.endsWithin_of_storeA).mono (by simp; omega)
  | storeA => exact (folderAt phase).endsWithin_of_storeA.mono (by simp; omega)
  | loadB =>
    exact (folderGroupRows_b.endsWithin_of_load (folderAt phase)
      fun _ _ => FolderAt.endsWithin_of_storeB).mono (by simp; omega)
  | sweepB =>
    exact (folderGroupRows_b.endsWithin_of_sweep (folderAt phase) left
      fun _ _ => FolderAt.endsWithin_of_storeB).mono (by omega)
  | storeB => exact (folderAt phase).endsWithin_of_storeB.mono (by omega)
  | idle => exact absurd phase notIdle

/-- Settles O43: by the invariant a busy engine has a command in progress, and each kind of command ends in time. -/
theorem everyRunningCommandTerminates : Obligations.EveryRunningCommandTerminates := by
  unfold Obligations.EveryRunningCommandTerminates
  intro s h hp busy
  obtain ⟨i, hr⟩ := h.exists_running busy
  obtain ⟨-, hwf, hseq⟩ := h.of_running hr
  cases i with
  | explode => exact h.endsWithin_of_explode hp hr
  | implode => exact h.endsWithin_of_implode hp hr
  | _ =>
    obtain ⟨rests, held⟩ := hseq
    exact ((busyRun_component hp busy rests hr hwf held).endsWithin
      (endsWithin_completeCommand (seq_commandEffect_acceptCommand rests))).mono (by omega)

/-! ### From acceptance to completion -/

/-- Accepting again a command that does not start the sequencer changes nothing. -/
theorem acceptCommand_acceptCommand {i : Instr} {s : State} (h : startSequencer i s.seq = s.seq) :
    acceptCommand i (acceptCommand i s) = acceptCommand i s := by
  simp only [acceptCommand, h]

/-- A posted component command is done one micro-step after its acceptance. -/
theorem busyRun_accepted_component {i : Instr} {s : State} (hp : s.pending = []) (hwf : i.wellFormed = true)
    (held : sourcesHeld i s = true) (rests : s.seq = restingSequencer) (noStart : startSequencer i s.seq = s.seq) :
    BusyRun 1 (acceptCommand i s) (completeCommand (commandEffect i (acceptCommand i s))) := by
  have run := busyRun_component (s := acceptCommand i s) hp rfl (noStart.trans rests) rfl hwf held
  rwa [acceptCommand_acceptCommand noStart] at run

/-- Whatever the command, the micro-steps after its acceptance come to its effect and its completion (R173, R193, R273). -/
theorem exists_busyRun_accepted {i : Instr} {s : State} (hp : s.pending = []) (rests : s.seq = restingSequencer)
    (hwf : i.wellFormed = true) (held : sourcesHeld i s = true) :
    ∃ n, n ≤ 2 * s.geometry.windows + 7 ∧
      BusyRun n (acceptCommand i s) (completeCommand (commandEffect i (acceptCommand i s))) := by
  cases i with
  | explode => exact ⟨_, by simp, busyRun_explodeEffect ⟨hp, rfl, rfl, rfl, rfl⟩⟩
  | implode => exact ⟨_, le_rfl, busyRun_implodeEffect ⟨hp, rfl, rfl, rfl, rfl, rfl⟩⟩
  | _ => exact ⟨1, by omega, busyRun_accepted_component hp hwf held rests rfl⟩

/-- Settles O42: the posted command is accepted and runs to what the blocking write answers in one step. -/
theorem postedCommandEndsAsTheCall : Obligations.PostedCommandEndsAsTheCall := by
  unfold Obligations.PostedCommandEndsAsTheCall
  rintro s w i hp ⟨idle, unfaulted⟩ rests hdec held
  obtain ⟨hwf, -⟩ := decode_eq_ok_iff.1 hdec
  obtain ⟨n, hn, ends, -⟩ := exists_busyRun_accepted hp rests hwf held
  have taken : { s with pending := [] } = s := by rw [← hp]
  have called : step { s with pending := [.call w] } = .next (completeCommand (commandEffect i (acceptCommand i s))) := by
    rw [step_call (s := { s with pending := [.call w] }) rfl idle, taken, callCommand_of_decode unfaulted hdec,
      exec_completes hwf held]
  refine ⟨1 + n, by omega, ?_⟩
  rw [run_add_of_next n (run_posted hp idle unfaulted hdec held), ends]
  exact (run_succ_of_step 0 called).symm

end Sys2Proof.Machine
end

section
/-! SUPPORT. The running engine does not look at the host's queue, so a write that the port holds off does not change what it
does (R268). -/

namespace Sys2Proof.Machine

/-- The state with another queue of host actions to come. -/
def State.withQueue (s : State) (q : List HostAction) : State := { s with pending := q }

section
variable (s : State) (q : List HostAction)

@[simp] theorem State.withQueue_pending : s.withQueue s.pending = s := rfl

@[simp] theorem State.withQueue_seq : (s.withQueue q).seq = s.seq := rfl

@[simp] theorem State.withQueue_geometry : (s.withQueue q).geometry = s.geometry := rfl

@[simp] theorem State.readBlock_withQueue (sp : Space) (b : Nat) :
    (s.withQueue q).readBlock sp b = s.readBlock sp b := rfl

@[simp] theorem State.readBlocks_withQueue (sp : Space) (b n : Nat) :
    (s.withQueue q).readBlocks sp b n = s.readBlocks sp b n := rfl

@[simp] theorem State.lanes_withQueue (d n : Nat) : (s.withQueue q).lanes d n = s.lanes d n := rfl

@[simp] theorem State.keys_withQueue : (s.withQueue q).keys = s.keys := rfl

/-! ### The operations inside a command -/

@[simp] theorem State.writeBytes_withQueue (sp : Space) (a : Nat) (vs : List Byte) :
    (s.withQueue q).writeBytes sp a vs = (s.writeBytes sp a vs).withQueue q := by
  induction vs generalizing s a with
  | nil => rfl
  | cons v rest ih =>
    have first : (s.withQueue q).writeByte sp a v = (s.writeByte sp a v).withQueue q := by cases sp <;> rfl
    rw [State.writeBytes, first, ih, State.writeBytes]

@[simp] theorem State.writeBlocks_withQueue (sp : Space) (b : Nat) (vs : List Block) :
    (s.withQueue q).writeBlocks sp b vs = (s.writeBlocks sp b vs).withQueue q := by
  induction vs generalizing s b with
  | nil => rfl
  | cons v rest ih =>
    rw [State.writeBlocks, State.writeBlock, State.writeBytes_withQueue, ih, State.writeBlocks, State.writeBlock]

@[simp] theorem State.setLanes_withQueue (d : Nat) (vs : List Block) :
    (s.withQueue q).setLanes d vs = (s.setLanes d vs).withQueue q := by
  induction vs generalizing s d with
  | nil => rfl
  | cons v rest ih => exact ih (s.setLane d v) (d + 1)

@[simp] theorem State.setKeys_withQueue (k : Nat) (vs : List Block) :
    (s.withQueue q).setKeys k vs = (s.setKeys k vs).withQueue q := by
  induction vs generalizing s k with
  | nil => rfl
  | cons v rest ih => exact ih (s.setKey k v) (k + 1)

@[simp] theorem State.endOfCommand_withQueue :
    (s.withQueue q).destroyRegisters.idleSequencer = s.destroyRegisters.idleSequencer.withQueue q := rfl

@[simp] theorem acceptCommand_withQueue (i : Instr) :
    acceptCommand i (s.withQueue q) = (acceptCommand i s).withQueue q := rfl

@[simp] theorem completeCommand_withQueue : completeCommand (s.withQueue q) = (completeCommand s).withQueue q := rfl

theorem explodeSweep_withQueue (keys : List Block) (off n i : Nat) (lanes : List Block) :
    explodeSweep keys off n i lanes (s.withQueue q) = (explodeSweep keys off n i lanes s).withQueue q := by
  induction n generalizing i lanes s with
  | zero => rfl
  | succ n ih => rw [explodeSweep, State.writeBlocks_withQueue, ih, explodeSweep]

@[simp] theorem explodeGroup_withQueue (keys : List Block) (off : Nat) :
    explodeGroup keys off (s.withQueue q) = (explodeGroup keys off s).withQueue q :=
  explodeSweep_withQueue s q keys off s.geometry.windows 0 (s.readBlocks .state (4 + off) 4)

@[simp] theorem implodeGroup_withQueue (keys : List Block) (off : Nat) :
    implodeGroup keys off (s.withQueue q) = (implodeGroup keys off s).withQueue q :=
  s.writeBlocks_withQueue q .state (4 + off) _

/-- No command's effect looks at the queue. -/
theorem commandEffect_withQueue (i : Instr) :
    commandEffect i (s.withQueue q) = (commandEffect i s).withQueue q := by
  cases i with
  | ldx | ldk | aesrnd | kassist => rfl
  | stx | stk => exact s.writeBytes_withQueue q _ _ _
  | kexp => exact s.setKeys_withQueue q _ _
  | round4 | round8 | net4 | net8 => exact s.setLanes_withQueue q _ _
  | explode => simp [commandEffect, explodeEffect_eq]
  | implode => simp [commandEffect, implodeEffect_eq]

/-! ### The rows -/

theorem explodeSweepRow_withQueue (off : Nat) :
    explodeSweepRow off (s.withQueue q) = (explodeSweepRow off s).withQueue q := by
  simp only [explodeSweepRow, State.lanes_withQueue, State.keys_withQueue, State.setLanes_withQueue,
    State.withQueue_seq, State.writeBlocks_withQueue]
  rfl

theorem implodeSweepRow_withQueue (off : Nat) :
    implodeSweepRow off (s.withQueue q) = (implodeSweepRow off s).withQueue q := by
  simp only [implodeSweepRow, State.lanes_withQueue, State.keys_withQueue, State.readBlocks_withQueue,
    State.withQueue_seq, State.setLanes_withQueue]
  rfl

/-- No row of the expander looks at the queue. -/
theorem explodeRow_withQueue : explodeRow (s.withQueue q) = (explodeRow s).withQueue q := by
  cases phase : s.seq.phase with
  | keygen =>
    simp only [explodeRow, State.withQueue_seq, phase, State.readBlock_withQueue, State.setKeys_withQueue]
    rfl
  | loadA | loadB =>
    simp only [explodeRow, State.withQueue_seq, phase, State.readBlocks_withQueue, State.setLanes_withQueue]
    rfl
  | sweepA | sweepB =>
    simp only [explodeRow, State.withQueue_seq, phase, State.withQueue_geometry, explodeSweepRow_withQueue]
    split <;> rfl
  | storeA | storeB | idle => simp only [explodeRow, State.withQueue_seq, phase]

/-- No row of the folder looks at the queue. -/
theorem implodeRow_withQueue : implodeRow (s.withQueue q) = (implodeRow s).withQueue q := by
  cases phase : s.seq.phase with
  | keygen =>
    simp only [implodeRow, State.withQueue_seq, phase, State.readBlock_withQueue, State.setKeys_withQueue]
    rfl
  | loadA | loadB =>
    simp only [implodeRow, State.withQueue_seq, phase, State.readBlocks_withQueue, State.setLanes_withQueue]
    rfl
  | sweepA | sweepB =>
    simp only [implodeRow, State.withQueue_seq, phase, State.withQueue_geometry, implodeSweepRow_withQueue]
    split <;> rfl
  | storeA =>
    simp only [implodeRow, State.withQueue_seq, phase, State.lanes_withQueue, State.writeBlocks_withQueue]
    rfl
  | storeB =>
    rw [implodeRow_storeB phase, implodeRow_storeB (s := s.withQueue q) phase, State.lanes_withQueue,
      State.writeBlocks_withQueue, State.endOfCommand_withQueue, completeCommand_withQueue]
  | idle => simp only [implodeRow, State.withQueue_seq, phase]

/-! ### The micro-step -/

/-- A command answers a next state, the same whatever the queue: its checks look at the registers alone. -/
theorem exec_withQueue (i : Instr) : ∃ t : State, ∀ q, exec i (s.withQueue q) = .next (t.withQueue q) := by
  simp only [exec_eq_runCommand]
  cases hwf : i.wellFormed with
  | false => exact ⟨raiseFault .illegalCmd (encode i) s, fun q => runCommand_illegal _ hwf⟩
  | true =>
    cases held : sourcesHeld i s with
    | false => exact ⟨raiseFault .noValue (encode i) s, fun q => runCommand_noValue _ hwf held⟩
    | true =>
      refine ⟨completeCommand (commandEffect i (acceptCommand i s)), fun q => ?_⟩
      rw [runCommand_completes (s := s.withQueue q) _ hwf held, acceptCommand_withQueue, commandEffect_withQueue,
        completeCommand_withQueue]

/-- A micro-step answers a next state, the same whatever the queue. -/
theorem engineStep_withQueue : ∃ t : State, ∀ q, engineStep (s.withQueue q) = .next (t.withQueue q) := by
  cases op : s.seq.op with
  | explode => exact ⟨explodeRow s, fun q => by rw [engineStep_explode (s := s.withQueue q) op, explodeRow_withQueue]⟩
  | implode => exact ⟨implodeRow s, fun q => by rw [engineStep_implode (s := s.withQueue q) op, implodeRow_withQueue]⟩
  | none =>
    rcases Option.eq_none_or_eq_some s.running with hr | ⟨i, hr⟩
    · exact ⟨completeCommand s, fun q => engineStep_no_command op hr⟩
    · obtain ⟨t, ht⟩ := exec_withQueue s i
      exact ⟨t, fun q => (engineStep_component (s := s.withQueue q) op hr).trans (ht q)⟩

end

/-- A write to `CMD` or `CFG` of a busy engine stays in the queue, and the step is a micro-step (R268). -/
theorem step_heldOff {s : State} {a : HostAction} {rest : List HostAction} {w : Word} (busy : s.status.busy = true)
    (hp : s.pending = a :: rest) (form : a = .call w ∨ a = .ctlWrite 0x00 32 w ∨ a = .ctlWrite 0x08 32 w) :
    step s = engineStep s := by
  rw [step_action hp]
  obtain rfl | rfl | rfl := form
  · simp [hostStep, busy]
  · simp [hostStep, busy, heldOff]
  · simp [hostStep, busy, heldOff]

/-- Settles O44: with the write held off the step is a micro-step, which neither looks at the queue nor changes it. -/
theorem busyWritesAreHeldOff : Obligations.BusyWritesAreHeldOff := by
  unfold Obligations.BusyWritesAreHeldOff
  intro s a rest w busy hp form
  obtain ⟨t, ht⟩ := engineStep_withQueue s
  refine ⟨t.withQueue (a :: rest), ?held, rfl, ?alone⟩
  case held => rw [step_heldOff busy hp form, ← ht, ← hp, State.withQueue_pending]
  case alone => exact (step_busy (s := s.withQueue []) rfl busy).trans (ht [])

end Sys2Proof.Machine
end

section
/-! SUPPORT. The host at the two memories: its accesses to an engine that is not busy, the accesses that the model does not
make, and what an abort leaves of the memories (R51, R54, R260, R261, R266, R267). -/

namespace Sys2Proof.Machine

/-! ### Reads and writes by the host -/

/-- A host write inside its space, to an engine that is not busy, writes the bytes (R51, R267). -/
theorem hostWrite_of_inRange {s : State} {sp : Space} {a : Nat} {bytes : List Byte} (idle : s.status.busy = false)
    (fits : a + bytes.length ≤ s.spaceSize sp) : hostWrite sp a bytes s = .next (s.writeBytes sp a bytes) := by
  simp [hostWrite, idle, inRange, fits]

/-- A host read inside its space, of an engine that is not busy, replies with the bytes (R51, R267). -/
theorem hostRead_of_inRange {s : State} {sp : Space} {a n : Nat} (idle : s.status.busy = false)
    (fits : a + n ≤ s.spaceSize sp) :
    hostRead sp a n s = .next { s with replies := .mem (s.readBytes sp a n) :: s.replies } := by
  simp [hostRead, idle, inRange, fits]

/-- The host may not look at the memories of a running engine, nor write them (R266, log 10). -/
theorem hostRead_of_busy {s : State} (sp : Space) (a n : Nat) (busy : s.status.busy = true) :
    hostRead sp a n s = .refused .hostMemoryWhileBusy := by
  simp [hostRead, busy]

theorem hostWrite_of_busy {s : State} (sp : Space) (a : Nat) (bytes : List Byte) (busy : s.status.busy = true) :
    hostWrite sp a bytes s = .refused .hostMemoryWhileBusy := by
  simp [hostWrite, busy]

/-- There is no byte beyond the end of a space (R37, log 11). -/
theorem hostRead_of_beyond {s : State} {sp : Space} {a n : Nat} (idle : s.status.busy = false)
    (beyond : s.spaceSize sp < a + n) : hostRead sp a n s = .fault (.hostOutOfRange sp) := by
  simp [hostRead, idle, inRange, Nat.not_le.2 beyond]

theorem hostWrite_of_beyond {s : State} {sp : Space} {a : Nat} {bytes : List Byte} (idle : s.status.busy = false)
    (beyond : s.spaceSize sp < a + bytes.length) : hostWrite sp a bytes s = .fault (.hostOutOfRange sp) := by
  simp [hostWrite, idle, inRange, Nat.not_le.2 beyond]

theorem sameControl_writeBytes (s : State) (sp : Space) (a : Nat) (vs : List Byte) :
    sameControl s (s.writeBytes sp a vs) := by
  simp [sameControl]

@[simp] theorem State.length_readBytes (s : State) (sp : Space) (a n : Nat) : (s.readBytes sp a n).length = n := by
  simp [State.readBytes]

theorem State.getElem?_readBytes (s : State) (sp : Space) {a n j : Nat} (hj : j < n) :
    (s.readBytes sp a n)[j]? = some (s.readByte sp (a + j)) := by
  simp [State.readBytes, indices, hj]

/-- Settles O49: the write is made, and it writes its bytes alone. -/
theorem hostWritesExactlyItsBytes : Obligations.HostWritesExactlyItsBytes := by
  unfold Obligations.HostWritesExactlyItsBytes
  intro s sp a bytes rest hp idle fits
  refine ⟨State.writeBytes { s with pending := rest } sp a bytes, ?step, fun j hj => ?written, fun sp' b outside => ?others,
    State.lane_congr (by simp), State.key_congr (by simp), by simp, by simp, by simp, sameControl_writeBytes _ sp a bytes⟩
  case step => exact (step_action hp).trans (hostWrite_of_inRange idle fits)
  case written => rw [State.readByte_writeBytes_inside _ _ _ _ _ hj, List.getElem?_eq_getElem hj]
  case others =>
    exact (State.readByte_writeBytes_outside _ _ _ _ _ _ outside).trans (sameMemories_of_eq (s := s) rfl rfl sp' b)

/-- Settles O50: the read is made, and it replies with the bytes. -/
theorem hostReadsTheBytes : Obligations.HostReadsTheBytes := by
  unfold Obligations.HostReadsTheBytes
  intro s sp a n rest hp idle fits
  refine ⟨State.readBytes { s with pending := rest } sp a n, State.length_readBytes _ _ _ _, fun j hj => ?bytes, ?step⟩
  case bytes => exact (State.getElem?_readBytes _ sp hj).trans (congrArg some (sameMemories_of_eq rfl rfl sp (a + j)))
  case step => exact (step_action hp).trans (hostRead_of_inRange idle fits)

/-- Settles O51: the port checks `BUSY` first and the range of the bytes next, for a read and for a write. -/
theorem hostMemoryAccessStops : Obligations.HostMemoryAccessStops := by
  unfold Obligations.HostMemoryAccessStops
  intro s sp a n bytes rest h hp access
  rw [step_action hp]
  obtain rfl | ⟨rfl, rfl⟩ := access
  · exact ⟨fun busy => hostRead_of_busy sp a n busy, fun idle beyond => hostRead_of_beyond idle beyond⟩
  · exact ⟨fun busy => hostWrite_of_busy sp a bytes busy, fun idle beyond => hostWrite_of_beyond idle beyond⟩

/-! ### An abort (R261) -/

/-- Every byte that an abort leaves unspecified reads as the free byte of that abort (log 8). -/
theorem State.readByte_leaveUnspecified_inside (s : State) (sp : Space) {a n b : Nat} (h : a ≤ b ∧ b < a + n) :
    (s.leaveUnspecified sp a n).readByte sp b = Config.abortedByte s.draws sp b := by
  induction n generalizing s a with
  | zero => omega
  | succ n ih =>
    rw [State.leaveUnspecified]
    by_cases first : b = a
    · subst first
      rw [State.readByte_leaveUnspecified_outside _ _ _ _ _ _ (fun _ => by omega), State.readByte_writeByte]
      simp
    · rw [ih _ (by omega), State.writeByte_draws]

/-- The bytes of the blocks of R261 are those of the machine's own table (R65). -/
theorem abortedBlock_iff_writtenBlocks (g : Geometry) (i : Instr) (sp : Space) (a : Nat) :
    abortedBlock g sp (a / 16) i ↔
      sp = (writtenBlocks g i).1 ∧ blockAddress (writtenBlocks g i).2.1 ≤ a ∧
        a < blockAddress (writtenBlocks g i).2.1 + 16 * (writtenBlocks g i).2.2 := by
  cases i with
  | stx | stk | explode | implode =>
    simp only [abortedBlock, writtenBlocks, blockAddress]
    exact and_congr_right fun _ => by omega
  | _ =>
    refine iff_of_false id fun ⟨_, _, inNoBlock⟩ => ?_
    simp only [writtenBlocks, blockAddress] at *
    omega

/-- Reset during a command leaves the written blocks of the command unspecified, and then resets the engine. -/
theorem readByte_resetInput_of_running {s : State} {i : Instr} (hr : s.running = some i) (sp : Space) (a : Nat) :
    (resetInput s).readByte sp a =
      (s.leaveUnspecified (writtenBlocks s.geometry i).1 (blockAddress (writtenBlocks s.geometry i).2.1)
        (16 * (writtenBlocks s.geometry i).2.2)).readByte sp a := by
  simp only [resetInput, abortRunning, hr]
  exact sameMemories_of_eq rfl rfl sp a

theorem readByte_resetInput_of_abortedBlock {s : State} {i : Instr} (hr : s.running = some i) {sp : Space} {a : Nat}
    (aborted : abortedBlock s.geometry sp (a / 16) i) :
    (resetInput s).readByte sp a = Config.abortedByte s.draws sp a := by
  obtain ⟨rfl, inside⟩ := (abortedBlock_iff_writtenBlocks _ _ _ _).1 aborted
  rw [readByte_resetInput_of_running hr, State.readByte_leaveUnspecified_inside _ _ inside]

theorem readByte_resetInput_of_not_abortedBlock {s : State} {i : Instr} (hr : s.running = some i) {sp : Space} {a : Nat}
    (kept : ¬ abortedBlock s.geometry sp (a / 16) i) : (resetInput s).readByte sp a = s.readByte sp a := by
  rw [abortedBlock_iff_writtenBlocks, not_and] at kept
  rw [readByte_resetInput_of_running hr, State.readByte_leaveUnspecified_outside]
  intro hsp
  have := kept hsp
  omega

theorem resetInput_pending (s : State) : (resetInput s).pending = s.pending := by
  simp only [resetInput, State.resetEngine_pending, abortRunning]
  split
  · rfl
  · exact State.leaveUnspecified_pending _ _ _ _

/-- Settles O55: the engine is reset after the abort, and the abort writes the command's blocks alone. -/
theorem abortLeavesWrittenBlocksUnspecified : Obligations.AbortLeavesWrittenBlocksUnspecified := by
  unfold Obligations.AbortLeavesWrittenBlocksUnspecified
  intro s i rest hp hr
  refine ⟨resetInput { s with pending := rest }, step_action hp, engineRegistersReset_resetEngine _, ⟨rfl, rfl⟩,
    resetInput_geometry _, resetInput_pending _, fun sp a => ⟨fun aborted => ?aborted, fun kept => ?kept⟩⟩
  case aborted => exact readByte_resetInput_of_abortedBlock (s := { s with pending := rest }) hr aborted
  case kept =>
    exact (readByte_resetInput_of_not_abortedBlock (s := { s with pending := rest }) hr kept).trans
      (sameMemories_of_eq (s := s) rfl rfl sp a)

end Sys2Proof.Machine
end
